-- ==== Sys2Proof/Word.lean ====
section
/-! DEFINITION. The bit-vector widths and the port names of the spec (R8, R9, R52). -/

namespace Sys2Proof

/-- A 32-bit command word, response word or binary32 pattern (R70, R86, R90). -/
abbrev Word := BitVec 32

/-- An unsigned 8-bit value (R9): a register offset, a register value, a byte on the wire. -/
abbrev Byte := BitVec 8

/-- A 16-bit two's-complement raw sample pattern (R8, R91). -/
abbrev Half := BitVec 16

/-- A 7-bit device address (R8, R50). -/
abbrev Addr7 := BitVec 7

/-- The index of a handle port (R52). H is at most 16 (R6), so sixteen names are enough; with a smaller H the
names from H on stand for no port. -/
abbrev PortId := Fin 16

/-- A port of the block: the management port M, or the handle port of handle p (R20, R36). -/
inductive PortRef where
  | m
  | handle (p : PortId)
  deriving DecidableEq, Repr

end Sys2Proof
end

