-- ==== Sys2Proof/Config.lean ====
section
/-! DEFINITION. The implementation parameters of R6 as plain data, their legal values, and the reference profile.
The oracle CHAN is not here: a channel outcome is drawn turn by turn (State.turns, log entry 3). -/

namespace Sys2Proof

/-- A full-scale range, or the source's explicit "unrecognized" outcome (R89, R180). -/
inductive RangeSetting where
  | fs2
  | fs4
  | fs8
  | fs16
  | unrecognized
  deriving DecidableEq, Repr

/-- The three axes of a sample (R8, 90_conflicts.md C4). -/
inductive Axis where
  | x
  | y
  | z
  deriving DecidableEq, Repr

/-- The arbitration choice ARB among waiting ports (R6, R102, R111). -/
inductive ArbPolicy where
  /-- Any waiting port may be granted: the arbiter's turn names the one it picks. -/
  | anyWaiting
  /-- The reference policy: the first waiting port after the one granted most recently. -/
  | roundRobin
  deriving DecidableEq, Repr

/-- The register offsets of one axis: REG_LO[a] and REG_HI[a] (R6). -/
structure AxisRegs where
  lo : Byte
  hi : Byte
  deriving DecidableEq, Repr

/-- The configuration record of R6. It is fixed for the life of the block (R35): no step changes it. -/
structure Config where
  /-- H, the number of handle ports. -/
  h : Nat
  /-- WMAX, the largest write length of a TRANSACT. -/
  wmax : Nat
  /-- RMAX, the largest read length of a TRANSACT. -/
  rmax : Nat
  /-- DEV_ADDR[0], named AD0. -/
  devAddr0 : Addr7
  /-- DEV_ADDR[1], named AD1. -/
  devAddr1 : Addr7
  /-- REG_ID. -/
  regId : Byte
  /-- ID_VALUE: the block never uses it (R157); callers and tests do. -/
  idValue : Byte
  /-- REG_CFG. -/
  regCfg : Byte
  /-- RANGE_LSB. -/
  rangeLsb : Nat
  /-- RANGE_TABLE, indexed by the 2-bit field code. -/
  rangeTable : Vector RangeSetting 4
  /-- REG_LO[X], REG_HI[X]. -/
  x : AxisRegs
  /-- REG_LO[Y], REG_HI[Y]. -/
  y : AxisRegs
  /-- REG_LO[Z], REG_HI[Z]. -/
  z : AxisRegs
  /-- ARB. -/
  arb : ArbPolicy
  deriving DecidableEq, Repr

/-- The two offsets of an axis. -/
def Config.axis (c : Config) : Axis → AxisRegs
  | .x => c.x
  | .y => c.y
  | .z => c.z

/-- The six sample offsets of R6, in the order of READ_SAMPLE's plan (R155). -/
def Config.sampleRegs (c : Config) : List Byte :=
  [c.x.lo, c.x.hi, c.y.lo, c.y.hi, c.z.lo, c.z.hi]

/-- The legal values of R6's table: ranges of H, WMAX, RMAX and RANGE_LSB, distinct device addresses, a bijective
RANGE_TABLE onto the four settings, six distinct sample offsets with REG_LO[a] < REG_HI[a]. -/
abbrev Config.wf (c : Config) : Prop :=
  (1 ≤ c.h ∧ c.h ≤ 16) ∧ (1 ≤ c.wmax ∧ c.wmax ≤ 255) ∧ (1 ≤ c.rmax ∧ c.rmax ≤ 255) ∧
  c.devAddr0 ≠ c.devAddr1 ∧ c.rangeLsb ≤ 6 ∧
  c.rangeTable.toList.Nodup ∧ RangeSetting.unrecognized ∉ c.rangeTable.toList ∧
  c.sampleRegs.Nodup ∧ c.x.lo < c.x.hi ∧ c.y.lo < c.y.hi ∧ c.z.lo < c.z.hi

/-- MAXRAW, the divisor of the scaling formula, fixed by the source (R6). -/
def maxRaw : Nat := 32767

/-- The reference profile of R6. Its values are not normative; claims quantify over every legal record. -/
def Config.reference : Config where
  h := 4
  wmax := 16
  rmax := 16
  devAddr0 := 0x68#7
  devAddr1 := 0x69#7
  regId := 0x75#8
  idValue := 0x67#8
  regCfg := 0x21#8
  rangeLsb := 5
  rangeTable := #v[.fs16, .fs8, .fs4, .fs2]
  x := ⟨0x0B#8, 0x0C#8⟩
  y := ⟨0x0D#8, 0x0E#8⟩
  z := ⟨0x0F#8, 0x10#8⟩
  arb := .roundRobin

end Sys2Proof
end

