-- ==== Sys2Proof/Syntax.lean ====
section
/-! DEFINITION. The ten commands of IBA command set v1 (R78), one constructor per row of spec/opcode_table.json, with the
operands their formats give them (R72 to R75). -/

namespace Sys2Proof

/-- A command of R78 with its operand fields, each taken from the word as it is (R77). -/
inductive Instr where
  /-- ACQUIRE, format N (R112). -/
  | acquire
  /-- TAKE_BUS, format N (R113). -/
  | takeBus
  /-- RUN, format N (R114). -/
  | run
  /-- BIND, format B (R151). -/
  | bind (asel : BitVec 1)
  /-- TRANSACT, format T (R115). Its write bytes are not in the word; they travel on the data lane (R76). -/
  | transact (addr : Addr7) (wlen : Byte) (rlen : Byte)
  /-- READ_REG, format R (R130). -/
  | readReg (addr : Addr7) (reg : Byte)
  /-- WRITE_REG, format R (R131). -/
  | writeReg (addr : Addr7) (reg : Byte) (val : Byte)
  /-- READ_ID, format N (R153). -/
  | readId
  /-- READ_RANGE, format N (R154). -/
  | readRange
  /-- READ_SAMPLE, format N (R155). -/
  | readSample
  deriving DecidableEq, Repr

/-- The management commands of R83, accepted only on M. -/
def Instr.isManagement : Instr → Bool
  | .acquire => true
  | .takeBus => true
  | .run => true
  | .bind _ => false
  | .transact _ _ _ => false
  | .readReg _ _ => false
  | .writeReg _ _ _ => false
  | .readId => false
  | .readRange => false
  | .readSample => false

/-- The driver commands, which use the bound device address (R150, R152). -/
def Instr.isDriver : Instr → Bool
  | .acquire => false
  | .takeBus => false
  | .run => false
  | .bind _ => false
  | .transact _ _ _ => false
  | .readReg _ _ => false
  | .writeReg _ _ _ => false
  | .readId => true
  | .readRange => true
  | .readSample => true

/-- The bus commands: the ones R101 does not complete at acceptance. -/
def Instr.isBus : Instr → Bool
  | .acquire => false
  | .takeBus => false
  | .run => false
  | .bind _ => false
  | .transact _ _ _ => true
  | .readReg _ _ => true
  | .writeReg _ _ _ => true
  | .readId => true
  | .readRange => true
  | .readSample => true

end Sys2Proof
end

