-- ==== Sys2Proof/WellFormed.lean ====
section
/-! DEFINITION. The legality rules that go beyond a word's row: the lengths of a TRANSACT (R81) and the data lane (R82). -/

namespace Sys2Proof

/-- R81: a TRANSACT moves at least one byte and stays within WMAX and RMAX. Every other command's operands are legal at
every value their fields hold. -/
def Instr.wf (c : Config) : Instr → Bool
  | .acquire => true
  | .takeBus => true
  | .run => true
  | .bind _ => true
  | .transact _ wlen rlen =>
    decide (wlen.toNat ≤ c.wmax) && decide (rlen.toNat ≤ c.rmax) && decide (1 ≤ wlen.toNat + rlen.toNat)
  | .readReg _ _ => true
  | .writeReg _ _ _ => true
  | .readId => true
  | .readRange => true
  | .readSample => true

/-- R76, R82: how many bytes the command's data lane must hold. -/
def Instr.laneLength : Instr → Nat
  | .acquire => 0
  | .takeBus => 0
  | .run => 0
  | .bind _ => 0
  | .transact _ wlen _ => wlen.toNat
  | .readReg _ _ => 0
  | .writeReg _ _ _ => 0
  | .readId => 0
  | .readRange => 0
  | .readSample => 0

/-- R82: the data lane has exactly the length the command asks for. -/
def Instr.laneOk (i : Instr) (ws : List Byte) : Bool :=
  decide (ws.length = i.laneLength)

/-- A command read from its row is legal with this data lane when R81 and R82 allow it (R85). -/
def Instr.legal (c : Config) (i : Instr) (ws : List Byte) : Bool :=
  i.wf c && i.laneOk ws

end Sys2Proof
end

