-- ==== Sys2Proof/Decode.lean ====
section
/-! DEFINITION. Decoding a command word (R70 to R85): the opcode table's rows, the decoder, total and rejecting by name, and the
encoder written from the same formats. -/

namespace Sys2Proof

/-- Why a word, or a word with its data lane, is Illegal (R79 to R82). -/
inductive DecodeError where
  /-- R79: OP is 0x0 or 0xB..0xF. -/
  | reservedOpcode
  /-- R80: a bit its format shows as 0 is 1. -/
  | reservedBits
  /-- R81: a TRANSACT length out of bounds. -/
  | illegalLength
  /-- R82: the data lane has the wrong length. -/
  | illegalLane
  deriving DecidableEq, Repr

/-- A row of the opcode table: a word matches it when CW & mask = match (R78). -/
structure OpcodeRow where
  matchBits : Word
  mask : Word
  deriving DecidableEq, Repr

/-- The word matches the row (R78). -/
def OpcodeRow.accepts (r : OpcodeRow) (w : Word) : Bool := decide (w &&& r.mask = r.matchBits)

/-- The ten rows of R78 in the table's order. -/
def opcodeTable : List OpcodeRow :=
  [⟨0x00000001#32, 0xFFFFFFFF#32⟩, ⟨0x00000002#32, 0xFFFFFFFF#32⟩, ⟨0x00000003#32, 0xFFFFFFFF#32⟩,
   ⟨0x00000004#32, 0xFFFFFFEF#32⟩, ⟨0x00000005#32, 0x0000F80F#32⟩, ⟨0x00000006#32, 0xFF00F80F#32⟩,
   ⟨0x00000007#32, 0x0000F80F#32⟩, ⟨0x00000008#32, 0xFFFFFFFF#32⟩, ⟨0x00000009#32, 0xFFFFFFFF#32⟩,
   ⟨0x0000000A#32, 0xFFFFFFFF#32⟩]

/-- OP = CW[3:0] (R71). -/
def opField (w : Word) : BitVec 4 := w.extractLsb' 0 4
/-- ASEL = CW[4] (R73). -/
def aselField (w : Word) : BitVec 1 := w.extractLsb' 4 1
/-- ADDR7 = CW[10:4] (R74, R75). -/
def addrField (w : Word) : Addr7 := w.extractLsb' 4 7
/-- CW[23:16]: REG of format R, WLEN of format T (R74, R75). -/
def midField (w : Word) : Byte := w.extractLsb' 16 8
/-- CW[31:24]: VAL of format R, RLEN of format T (R74, R75). -/
def topField (w : Word) : Byte := w.extractLsb' 24 8

/-- R80: the command when the word has 0 in every bit its format shows as 0, else Illegal. -/
def reservedClear (w : Word) (row : OpcodeRow) (i : Instr) : Except DecodeError Instr :=
  if row.accepts w then .ok i else .error .reservedBits

/-- The command whose row the word matches (R78 to R80), before the legality of lengths and data lane. -/
def decodeWord (w : Word) : Except DecodeError Instr :=
  match (opField w).toNat with
  | 0x1 => reservedClear w ⟨0x00000001#32, 0xFFFFFFFF#32⟩ .acquire
  | 0x2 => reservedClear w ⟨0x00000002#32, 0xFFFFFFFF#32⟩ .takeBus
  | 0x3 => reservedClear w ⟨0x00000003#32, 0xFFFFFFFF#32⟩ .run
  | 0x4 => reservedClear w ⟨0x00000004#32, 0xFFFFFFEF#32⟩ (.bind (aselField w))
  | 0x5 => reservedClear w ⟨0x00000005#32, 0x0000F80F#32⟩ (.transact (addrField w) (midField w) (topField w))
  | 0x6 => reservedClear w ⟨0x00000006#32, 0xFF00F80F#32⟩ (.readReg (addrField w) (midField w))
  | 0x7 => reservedClear w ⟨0x00000007#32, 0x0000F80F#32⟩ (.writeReg (addrField w) (midField w) (topField w))
  | 0x8 => reservedClear w ⟨0x00000008#32, 0xFFFFFFFF#32⟩ .readId
  | 0x9 => reservedClear w ⟨0x00000009#32, 0xFFFFFFFF#32⟩ .readRange
  | 0xA => reservedClear w ⟨0x0000000A#32, 0xFFFFFFFF#32⟩ .readSample
  | _ => .error .reservedOpcode

/-- decode(CW, WS) of R85, total on every word and data lane: the command with its fields, or why it is Illegal. -/
def decode (c : Config) (w : Word) (ws : List Byte) : Except DecodeError Instr :=
  match decodeWord w with
  | .error e => .error e
  | .ok i =>
    if i.wf c then
      if i.laneOk ws then .ok i else .error .illegalLane
    else .error .illegalLength

/-- The word of a command, from the formats of R72 to R75 and the assembler table of R92. -/
def encode : Instr → Word
  | .acquire => 0#28 ++ 0x1#4
  | .takeBus => 0#28 ++ 0x2#4
  | .run => 0#28 ++ 0x3#4
  | .bind asel => 0#27 ++ asel ++ 0x4#4
  | .transact addr wlen rlen => rlen ++ wlen ++ 0#5 ++ addr ++ 0x5#4
  | .readReg addr reg => 0#8 ++ reg ++ 0#5 ++ addr ++ 0x6#4
  | .writeReg addr reg val => val ++ reg ++ 0#5 ++ addr ++ 0x7#4
  | .readId => 0#28 ++ 0x8#4
  | .readRange => 0#28 ++ 0x9#4
  | .readSample => 0#28 ++ 0xA#4

/-- The word of an opcode-table row, its bits numbered as the table numbers them: one 32-bit word (R70), so bits above
nbits are 0. -/
def tableWord (nbits w : Nat) : Word := BitVec.ofNat 32 (w % 2 ^ nbits)

/-- What the decoder reads from the word of an opcode-table row. -/
def decodeTableWord (nbits w : Nat) : Option Instr :=
  match decodeWord (tableWord nbits w) with
  | .ok i => some i
  | .error _ => none

/-- The row of the opcode table that a command belongs to (R78). -/
def Instr.row : Instr → OpcodeRow
  | .acquire => ⟨0x00000001#32, 0xFFFFFFFF#32⟩
  | .takeBus => ⟨0x00000002#32, 0xFFFFFFFF#32⟩
  | .run => ⟨0x00000003#32, 0xFFFFFFFF#32⟩
  | .bind _ => ⟨0x00000004#32, 0xFFFFFFEF#32⟩
  | .transact _ _ _ => ⟨0x00000005#32, 0x0000F80F#32⟩
  | .readReg _ _ => ⟨0x00000006#32, 0xFF00F80F#32⟩
  | .writeReg _ _ _ => ⟨0x00000007#32, 0x0000F80F#32⟩
  | .readId => ⟨0x00000008#32, 0xFFFFFFFF#32⟩
  | .readRange => ⟨0x00000009#32, 0xFFFFFFFF#32⟩
  | .readSample => ⟨0x0000000A#32, 0xFFFFFFFF#32⟩

end Sys2Proof
end

