-- ==== Sys2Proof/Machine/State.lean ====
section
/-! DEFINITION. The state of the block (R20 to R31), the observation records of its runs (R55, R108), the turns of the agents
around it (R11), and the ways a step can stop. All of it is plain data. -/

namespace Sys2Proof.Machine

/-- The status of a completed command (R88, R200). -/
inductive Status where
  | ok
  | transportWrite
  | transportRead
  | unreachableConfig
  | illegal
  | wrongPort
  | notAcquired
  | handlesExhausted
  | phase
  | busTaken
  | busNotOwned
  | notBound
  | alreadyBound
  deriving DecidableEq, Repr

/-- The payload of an OK response (R87). A command without a payload has none. -/
inductive Payload where
  /-- TRANSACT: RDATA, in wire order. -/
  | rdata (bytes : List Byte)
  /-- READ_RANGE: FS. -/
  | fs (fs : Word)
  /-- READ_SAMPLE: RAW_a, PHYS_a, FS. -/
  | sample (rawX rawY rawZ : Half) (physX physY physZ : Word) (fs : Word)
  deriving DecidableEq, Repr

/-- A response record: the response word RW of R86 and the payload of R87. -/
structure Response where
  rw : Word
  payload : Option Payload
  deriving DecidableEq, Repr

/-- What R107 computes for a command: its status, the BYTE and RSET fields and the payload. -/
structure Result where
  status : Status
  byte : Byte
  rset : BitVec 3
  payload : Option Payload
  deriving DecidableEq, Repr

/-- PST[p], the sequencer state of a handle port (R26). -/
inductive PortStatus where
  | idle
  | wait
  | bus
  | done
  deriving DecidableEq, Repr

/-- MST, the state of the management port (R31). -/
inductive MgmtStatus where
  | idle
  | done
  deriving DecidableEq, Repr

/-- PHASE (R21). -/
inductive Phase where
  | setup
  | run
  deriving DecidableEq, Repr

/-- The state of one handle port (R25 to R30). CMD, WD and RSP are Options because the spec gives them the value "no
value" (R38, R39). -/
structure PortState where
  /-- BOUND[p], 1 bit (R25). -/
  bound : Bool
  /-- ASEL[p], 1 bit (R25). -/
  asel : BitVec 1
  /-- PST[p] (R26). -/
  pst : PortStatus
  /-- CMD[p] (R27). -/
  cmd : Option Word
  /-- WD[p], at most WMAX bytes (R27). -/
  wd : Option (List Byte)
  /-- STEP[p], 3 bits (R28). -/
  step : BitVec 3
  /-- RBUF[p] (R29). -/
  rbuf : List Byte
  /-- RSP[p] (R30). -/
  rsp : Option Response
  deriving DecidableEq, Repr

/-- The reset value of a handle port (R38). -/
def PortState.reset : PortState where
  bound := false
  asel := 0#1
  pst := .idle
  cmd := none
  wd := none
  step := 0#3
  rbuf := []
  rsp := none

/-- The phase of a transaction a channel error is reported for (R10, R109). -/
inductive XferPhase where
  | write
  | read
  deriving DecidableEq, Repr

/-- The outcome of one channel exchange: Ok(rs), Err(WRITE) or Err(READ) (R10, R109). -/
inductive ChanOutcome where
  | ok (rs : List Byte)
  | err (ph : XferPhase)
  deriving DecidableEq, Repr

/-- One planned channel transaction: address, write list, read length (R106). -/
structure Xfer where
  addr : Addr7
  ws : List Byte
  m : Nat
  deriving DecidableEq, Repr

/-- One entry (p, a, ws, m, outcome) of the event history (R55). -/
structure BusEvent where
  port : PortId
  xfer : Xfer
  outcome : ChanOutcome
  deriving DecidableEq, Repr

/-- What a requester submits: the command word and the data lane (R100). -/
structure Submission where
  cw : Word
  ws : List Byte
  deriving DecidableEq, Repr

/-- Whose step comes next (R11). A turn given to an agent whose step is not enabled passes. -/
inductive Turn where
  /-- The requester of port q submits the oldest command it holds (R100). -/
  | submit (q : PortRef)
  /-- The requester of port q takes its response (R108). -/
  | take (q : PortRef)
  /-- The arbiter grants the lock (R102). Under the open policy it picks the port named here. -/
  | arbiter (choice : PortId)
  /-- The channel answers port p with this outcome, drawn from outside the block (R103, R109). -/
  | channel (p : PortId) (o : ChanOutcome)
  /-- Reset is asserted (R230, R231). -/
  | reset
  deriving DecidableEq, Repr

/-- The machine. The block's own state is the seven fields from phase to mrsp (R20); cfg is its parameter record, and the
others are the reference arbiter's memory, the observation records, and the environment's pending inputs. -/
structure State where
  /-- The configuration record of R6: a parameter, carried along and never changed (R35). -/
  cfg : Config
  /-- PHASE (R21). -/
  phase : Phase
  /-- BUS_OWNED (R22). -/
  busOwned : Bool
  /-- NEXT_HANDLE, 5 bits (R23). -/
  nextHandle : BitVec 5
  /-- LOCK: none, or held(p) (R24). -/
  lock : Option PortId
  /-- The handle ports (R25 to R30). Port p exists when p < H. -/
  ports : Vector PortState 16
  /-- MST (R31). -/
  mst : MgmtStatus
  /-- MRSP (R31). -/
  mrsp : Option Response
  /-- The port granted most recently: the memory of the reference arbiter (R111). -/
  arbLast : PortId
  /-- The event history, oldest first (R55): an observation, read by no rule. -/
  history : List BusEvent
  /-- The responses the requesters have taken, oldest first (R108): an observation, read by no rule. -/
  delivered : List (PortRef × Response)
  /-- The commands the requester of each handle port holds, oldest first (R100: it waits while the port is busy). -/
  offers : Vector (List Submission) 16
  /-- The commands the requester of M holds, oldest first. -/
  mOffers : List Submission
  /-- The turns to come (R11). -/
  turns : List Turn
  deriving DecidableEq, Repr

/-- The block at reset (R38, R230) under the configuration c, with nothing observed, nothing offered and no turn to come. -/
def State.resetWith (c : Config) : State where
  cfg := c
  phase := .setup
  busOwned := false
  nextHandle := 0#5
  lock := none
  ports := Vector.replicate 16 PortState.reset
  mst := .idle
  mrsp := none
  arbLast := Fin.ofNat 16 (c.h - 1)
  history := []
  delivered := []
  offers := Vector.replicate 16 []
  mOffers := []
  turns := []

/-- The machine right after reset, under the reference profile of R6. -/
def State.reset : State := State.resetWith Config.reference

/-- The ways a step can stop. Each is a read of something that is not there, which R39 asks a model to make a fault; no
rule of the spec does any of them, and none happens in a state that meets the invariant Inv of Safety.lean. All are safe:
the machine stops where no rule says what it does. -/
inductive Fault where
  /-- R39: a read of CMD, WD, RSP or MRSP while it holds no value. Raised by the take step and by the perform step. -/
  | noValue
  /-- R103: STEP[p] is past the end of the plan, so there is no transaction to perform. Raised by the perform step. -/
  | noTransaction
  /-- R103: CMD[p] holds a word that decodes to no command, so there is no plan. Raised by the perform step. -/
  | undecodable
  /-- R107: the result reads a byte that RBUF[p] does not hold. Raised by the perform step. -/
  | shortReadBuffer
  deriving DecidableEq, Repr

/-- Why the model gives a command no meaning. -/
inductive Refusal where
  /-- The command has no meaning in the model yet; no arm of exec says so. Safe. -/
  | notModelled (mnemonic : String)
  /-- exec was asked for a command's effect in a state whose next turn is no enabled submission and no enabled perform
  step. step never asks that. Safe. -/
  | notDue
  deriving DecidableEq, Repr

end Sys2Proof.Machine
end

