-- ==== Sys2Proof/Machine/Operands.lean ====
section
/-! DEFINITION. What the commands compute from bytes: the device address of a driver command (R152), sample assembly (R133), the
Range Decoder (R180 to R182), the rounding primitive and the Range-Scale Multiplier (R183, R184), and the byte order of a
serialised interface word (R57). -/

namespace Sys2Proof.Machine

/-- DEV_ADDR[ASEL] (R25, R73). -/
def devAddr (c : Config) (asel : BitVec 1) : Addr7 := if asel = 1#1 then c.devAddr1 else c.devAddr0

/-- assemble16(lo, hi) of R133 as a 16-bit pattern: the byte of the lower offset is the least-significant one (R56). -/
def assemble16 (lo hi : Byte) : Half := hi ++ lo

/-- The two-bit field of a configuration byte at RANGE_LSB (R181). -/
def rangeField (c : Config) (cfg : Byte) : BitVec 2 := cfg.extractLsb' c.rangeLsb 2

/-- decode_range(cfg) of R181. -/
def decodeRange (c : Config) (cfg : Byte) : RangeSetting := c.rangeTable[(rangeField c cfg).toFin]

/-- The RSET code of a setting (R89). -/
def rsetCode : RangeSetting → BitVec 3
  | .fs2 => 0#3
  | .fs4 => 1#3
  | .fs8 => 2#3
  | .fs16 => 3#3
  | .unrecognized => 7#3

/-- fs(rs) of R182; it is not defined for UNRECOGNIZED. -/
def fullScale : RangeSetting → Option Nat
  | .fs2 => some 2
  | .fs4 => some 4
  | .fs8 => some 8
  | .fs16 => some 16
  | .unrecognized => none

/-! ## Rounding to binary32 -/

/-- n / d rounded to the nearest integer, ties to even. -/
def divNearestEven (n d : Nat) : Nat :=
  if 2 * (n % d) < d then n / d
  else if d < 2 * (n % d) then n / d + 1
  else n / d + (n / d) % 2

/-- The exponent e with 2^e ≤ n/d < 2^(e+1), for positive n and d. -/
def ratioExponent (n d : Nat) : Int :=
  let e := (n.log2 : Int) - (d.log2 : Int)
  if n * 2 ^ (-e).toNat < d * 2 ^ e.toNat then e - 1 else e

/-- The exponent of the binary32 grid that n/d lies in: its own exponent, but never below the smallest normal one. -/
def gridExponent (n d : Nat) : Int := max (ratioExponent n d) (-126)

/-- n/d in units of the last place of its grid, rounded once. -/
def gridUnits (n d : Nat) : Nat :=
  divNearestEven (n * 2 ^ (23 - gridExponent n d).toNat) (d * 2 ^ (gridExponent n d - 23).toNat)

/-- The binary32 pattern, sign bit 0, nearest to n/d (R90, R183). A carry out of the fraction raises the exponent field,
and a magnitude past the largest finite value gives infinity. -/
def rne32Magnitude (n d : Nat) : Nat :=
  if n = 0 then 0 else min ((gridExponent n d + 126).toNat * 2 ^ 23 + gridUnits n d) 0x7F800000

/-- RNE32(n/d) of R183, for positive d. RNE32(0) is +0.0. -/
def rne32 (n : Int) (d : Nat) : Word :=
  BitVec.ofNat 32 ((if n < 0 then 0x80000000 else 0) + rne32Magnitude n.natAbs d)

/-- scale(raw, rs) of R184, with f = fs(rs): the exact quotient raw * f / 32767, rounded once. -/
def scale (raw : Int) (f : Nat) : Word := rne32 (raw * f) maxRaw

/-- fs(rs) as a binary32 value (R182). -/
def fullScaleWord (f : Nat) : Word := rne32 f 1

/-! ## Serialised interface words -/

/-- R57: a 32-bit interface field, serialised, least-significant byte first. -/
def wordBytes (w : Word) : List Byte :=
  [w.extractLsb' 0 8, w.extractLsb' 8 8, w.extractLsb' 16 8, w.extractLsb' 24 8]

/-- R57: a 16-bit interface field, serialised, least-significant byte first. -/
def halfBytes (h : Half) : List Byte := [h.extractLsb' 0 8, h.extractLsb' 8 8]

end Sys2Proof.Machine
end

