-- ==== Sys2Proof/Machine/Flags.lean ====
section
/-! DEFINITION. The block has no flags or condition codes (R33); what a command reports instead is its status. This file holds
the port accessors the checks read through, the status codes (R88), the acceptance checks in their order (R204) and the
response word (R86). -/

namespace Sys2Proof.Machine

/-! ## Ports -/

/-- Port p exists: p < H (R20). -/
def State.present (s : State) (p : PortId) : Bool := decide (p.val < s.cfg.h)

/-- The state of handle port p. -/
def State.port (s : State) (p : PortId) : PortState := s.ports[p.val]

/-- Replace the state of handle port p. -/
def State.setPort (s : State) (p : PortId) (x : PortState) : State := { s with ports := s.ports.set p.val x }

/-- acquired(p) of R23. -/
def State.acquired (s : State) (p : PortId) : Bool := decide (p.val < s.nextHandle.toNat)

/-- R100: port q exists and accepts a submission. -/
def State.idle (s : State) : PortRef → Bool
  | .m => decide (s.mst = .idle)
  | .handle p => s.present p && decide ((s.port p).pst = .idle)

/-! ## Status -/

/-- The code of a status (R88). -/
def Status.code : Status → BitVec 8
  | .ok => 0x00#8
  | .transportWrite => 0x01#8
  | .transportRead => 0x02#8
  | .unreachableConfig => 0x03#8
  | .illegal => 0x10#8
  | .wrongPort => 0x11#8
  | .notAcquired => 0x12#8
  | .handlesExhausted => 0x13#8
  | .phase => 0x14#8
  | .busTaken => 0x15#8
  | .busNotOwned => 0x16#8
  | .notBound => 0x17#8
  | .alreadyBound => 0x18#8

/-- The status a channel error of that phase gives (R105). -/
def transportStatus : XferPhase → Status
  | .write => .transportWrite
  | .read => .transportRead

/-- BOUND of the port; M is never bound (R25, R31). -/
def portBound (s : State) (q : PortRef) : Bool :=
  match q with
  | .m => false
  | .handle p => (s.port p).bound

/-- R204 for the commands that need the bus. -/
def checkBus (s : State) : Status := if s.busOwned then .ok else .busNotOwned

/-- R204 for READ_ID, READ_RANGE and READ_SAMPLE: bound first, then the bus. -/
def checkDriver (s : State) (q : PortRef) : Status := if portBound s q then checkBus s else .notBound

/-- The command-specific checks of R204, the first that fails. -/
def checkCommand (s : State) (q : PortRef) : Instr → Status
  | .acquire =>
    if s.phase = .run then .phase else if s.nextHandle.toNat = s.cfg.h then .handlesExhausted else .ok
  | .takeBus => if s.busOwned then .busTaken else .ok
  | .run => if s.phase = .run then .phase else .ok
  | .bind _ => if portBound s q then .alreadyBound else .ok
  | .transact _ _ _ => checkBus s
  | .readReg _ _ => checkBus s
  | .writeReg _ _ _ => checkBus s
  | .readId => checkDriver s q
  | .readRange => checkDriver s q
  | .readSample => checkDriver s q

/-- R204, the port-class check: a management command on a handle port, or a handle command on M. -/
def wrongPort (q : PortRef) (i : Instr) : Bool :=
  match q with
  | .m => !i.isManagement
  | .handle _ => i.isManagement

/-- R204, the acquisition check, which M passes. -/
def unacquired (s : State) (q : PortRef) : Bool :=
  match q with
  | .m => false
  | .handle p => !s.acquired p

/-- check(q, c) of R204: the first failing check, in the spec's order. A command whose lengths or data lane are not legal
is Illegal (R81, R82). -/
def check (s : State) (q : PortRef) (ws : List Byte) (i : Instr) : Status :=
  if !i.legal s.cfg ws then .illegal
  else if wrongPort q i then .wrongPort
  else if unacquired s q then .notAcquired
  else checkCommand s q i

/-! ## Response -/

/-- A result with no field and no payload. -/
def Result.empty : Result := ⟨.ok, 0#8, 0#3, none⟩

/-- An OK result that carries a byte (R107). -/
def Result.ofByte (b : Byte) : Result := ⟨.ok, b, 0#3, none⟩

/-- The response word of R86: bits 31..27 are 0, RSET, BYTE, bits 15..11 are 0, STEP, STATUS. -/
def responseWord (st : Status) (n : BitVec 3) (byte : Byte) (rset : BitVec 3) : Word :=
  0#5 ++ rset ++ byte ++ 0#5 ++ n ++ st.code

/-- The response record of a completed command (R86, R87). -/
def response (st : Status) (n : BitVec 3) (r : Result) : Response := ⟨responseWord st n r.byte r.rset, r.payload⟩

end Sys2Proof.Machine
end

