-- ==== Sys2Proof/Machine/Ops.lean ====
section
/-! DEFINITION. The named operations of the block over its ports and the shared steps of R100 to R108: submission, completion,
raising a status (the block's exception entry, R203), taking a response (the return from it, R206), grant, perform, reset. -/

namespace Sys2Proof.Machine

/-! ## Consuming the environment's inputs -/

/-- The next turn is used up. -/
def State.passTurn (s : State) : State := { s with turns := s.turns.tail }

/-- The commands the requester of q still holds. -/
def State.offersOf (s : State) : PortRef → List Submission
  | .m => s.mOffers
  | .handle p => s.offers[p.val]

/-- The next turn and the oldest command the requester of q holds are used up (R100). -/
def State.consume (s : State) : PortRef → State
  | .m => { s with turns := s.turns.tail, mOffers := s.mOffers.tail }
  | .handle p => { s with turns := s.turns.tail, offers := s.offers.set p.val (s.offers[p.val]).tail }

/-! ## Which command step is due -/

/-- The command step the next turn enables, if any. -/
inductive Due where
  /-- No submission and no perform step is enabled. -/
  | nothing
  /-- R100: q is idle, its requester's turn has come, and sub is the oldest command it holds. -/
  | accept (q : PortRef) (sub : Submission)
  /-- R103: p is in BUS, and the channel's turn brings the outcome o. -/
  | perform (p : PortId) (o : ChanOutcome)
  deriving DecidableEq, Repr

/-- R100 and R103: which command step the next turn enables. -/
def State.due (s : State) : Due :=
  match s.turns with
  | .submit q :: _ =>
    if s.idle q then
      match s.offersOf q with
      | sub :: _ => .accept q sub
      | [] => .nothing
    else .nothing
  | .channel p o :: _ => if s.present p && decide ((s.port p).pst = .bus) then .perform p o else .nothing
  | .take _ :: _ => .nothing
  | .arbiter _ :: _ => .nothing
  | .reset :: _ => .nothing
  | [] => .nothing

/-! ## Completing a command; errors and the return from them -/

/-- complete(q, st, n, r) of R101: the response is written and the port is DONE. -/
def complete (q : PortRef) (st : Status) (n : BitVec 3) (r : Result) (s : State) : State :=
  match q with
  | .m => { s with mst := .done, mrsp := some (response st n r) }
  | .handle p => s.setPort p { s.port p with pst := .done, rsp := some (response st n r) }

/-- R203, the block's exception entry: raise st(n) completes the command with that status and step and no result. It
saves nothing else, and it changes no mode. -/
def raise (q : PortRef) (st : Status) (n : BitVec 3) (s : State) : State :=
  complete q st n Result.empty s

/-- R108 and R206, the return after any completion: the requester takes the response, once, and the port is IDLE.
CMD, WD and RSP hold no value from then on (R27, R30). -/
def take (q : PortRef) (s : State) : Host.Outcome State Fault Refusal :=
  match q with
  | .m =>
    if s.mst = .done then
      match s.mrsp with
      | some r => .next { s.passTurn with mst := .idle, mrsp := none, delivered := s.delivered ++ [(PortRef.m, r)] }
      | none => .fault .noValue
    else .next s.passTurn
  | .handle p =>
    if s.present p && decide ((s.port p).pst = .done) then
      match (s.port p).rsp with
      | some r =>
        .next ({ s.passTurn with delivered := s.delivered ++ [(PortRef.handle p, r)] }.setPort p
          { s.port p with pst := .idle, cmd := none, wd := none, rsp := none })
      | none => .fault .noValue
    else .next s.passTurn

/-! ## Submission and acceptance -/

/-- R27, R76: WD holds at most WMAX bytes. A legal data lane fits; of a longer one, which is Illegal (R81, R82), the first WMAX
bytes are kept (log entry 12). -/
def latchedLane (c : Config) (ws : List Byte) : List Byte := ws.take c.wmax

/-- R100: the command is taken in; a handle port latches its word and its write data. -/
def latch (q : PortRef) (sub : Submission) (s : State) : State :=
  match q with
  | .m => s.consume .m
  | .handle p =>
    (s.consume (.handle p)).setPort p { s.port p with cmd := some sub.cw, wd := some (latchedLane s.cfg sub.ws) }

/-- R101 for an Illegal word (R79, R80): it completes at once with E_ILLEGAL. -/
def acceptIllegal (q : PortRef) (sub : Submission) (s : State) : State :=
  raise q .illegal 0 (latch q sub s)

/-- R101, the bus-command branch: STEP 0, an empty read buffer, WAIT. -/
def startBus (q : PortRef) (s : State) : State :=
  match q with
  | .m => s
  | .handle p => s.setPort p { s.port p with step := 0, rbuf := [], pst := .wait }

/-! ## Grant -/

/-- The set W of R102: port p exists and is in WAIT. -/
def State.waiting (s : State) (p : PortId) : Bool :=
  s.present p && decide ((s.port p).pst = .wait)

/-- R111: the reference policy grants the first waiting port in the order last+1, last+2, … (mod H). -/
def roundRobinChoice (s : State) : Option PortId :=
  ((List.range s.cfg.h).map fun k => Fin.ofNat 16 ((s.arbLast.val + 1 + k) % s.cfg.h)).find? s.waiting

/-- ARB(W) of R102: the choice the arbiter's turn brings when the policy is open, else the policy's own. -/
def arbChoice (choice : PortId) (s : State) : Option PortId :=
  match s.cfg.arb with
  | .anyWaiting => if s.waiting choice then some choice else none
  | .roundRobin => roundRobinChoice s

/-- R102: with the lock free, the chosen waiting port gets the lock and the bus. Otherwise the turn passes. -/
def grant (choice : PortId) (s : State) : State :=
  match s.lock with
  | some _ => s.passTurn
  | none =>
    match arbChoice choice s with
    | none => s.passTurn
    | some p => { s.passTurn with lock := some p, arbLast := p }.setPort p { s.port p with pst := .bus }

/-! ## Perform -/

/-- R109, items 1 and 2: the outcomes the channel may give this transaction. -/
def Xfer.admits (x : Xfer) : ChanOutcome → Bool
  | .ok rs => decide (rs.length = x.m)
  | .err .write => decide (1 ≤ x.ws.length)
  | .err .read => decide (1 ≤ x.m)

/-- R103: the transaction is on the bus; the event is recorded and the lock is free again. -/
def State.performed (s : State) (p : PortId) (x : Xfer) (o : ChanOutcome) : State :=
  { s.passTurn with lock := none, history := s.history ++ [⟨p, x, o⟩] }

/-- R104: the bytes read join RBUF and STEP advances; the port waits for the lock again, or the command completes with
the result of its whole read buffer. -/
def continueAfterOk (plan : List Xfer) (result : List Byte → Option Result) (p : PortId) (rs : List Byte)
    (s : State) : Host.Outcome State Fault Refusal :=
  let rb := (s.port p).rbuf ++ rs
  let n := (s.port p).step + 1
  if n.toNat < plan.length then
    .next (s.setPort p { s.port p with rbuf := rb, step := n, pst := .wait })
  else
    match result rb with
    | none => .fault .shortReadBuffer
    | some r => .next (complete (.handle p) r.status 0 r (s.setPort p { s.port p with rbuf := rb, step := n }))

/-- R103 to R105: the transaction of the plan at STEP[p] meets the outcome o. An outcome that R109 excludes is no answer:
the turn passes and the transaction stays in flight (log entry 6). -/
def perform (plan : Option (List Xfer)) (result : List Byte → Option Result) (p : PortId) (o : ChanOutcome)
    (s : State) : Host.Outcome State Fault Refusal :=
  match plan with
  | none => .fault .noValue
  | some xs =>
    match xs[(s.port p).step.toNat]? with
    | none => .fault .noTransaction
    | some x =>
      if x.admits o then
        match o with
        | .ok rs => continueAfterOk xs result p rs (s.performed p x o)
        | .err ph => .next (raise (.handle p) (transportStatus ph) (s.port p).step (s.performed p x o))
      else .next s.passTurn

/-! ## Reset -/

/-- R230, R231: every field of the block takes its reset value; an outstanding command is dropped without a response. The
parameters, the observation records and the environment's inputs are not the block's. -/
def resetBlock (s : State) : State :=
  { State.resetWith s.cfg with
    history := s.history, delivered := s.delivered, offers := s.offers, mOffers := s.mOffers,
    turns := s.turns.tail }

/-! ## A command's step -/

/-- R101 for a command that completes at acceptance: check, then its effect on the state and its result. Such a command
has no plan, so no perform step is its own. -/
def runImmediate (i : Instr) (effect : PortRef → State → State × Result) (s : State) :
    Host.Outcome State Fault Refusal :=
  match s.due with
  | .nothing => .refused .notDue
  | .accept q sub =>
    if check s q sub.ws i = .ok then
      .next (complete q .ok 0 (effect q (latch q sub s)).2 (effect q (latch q sub s)).1)
    else .next (raise q (check s q sub.ws i) 0 (latch q sub s))
  | .perform _ _ => .fault .noTransaction

/-- R101 and R103 for a bus command: at acceptance, check and then WAIT; at each perform step, the transaction of its plan
at STEP[p], and after the last one its result. -/
def runBus (i : Instr) (plan : Config → PortState → Option (List Xfer)) (result : Config → List Byte → Option Result)
    (s : State) : Host.Outcome State Fault Refusal :=
  match s.due with
  | .nothing => .refused .notDue
  | .accept q sub =>
    if check s q sub.ws i = .ok then .next (startBus q (latch q sub s))
    else .next (raise q (check s q sub.ws i) 0 (latch q sub s))
  | .perform p o => perform (plan s.cfg (s.port p)) (result s.cfg) p o s

end Sys2Proof.Machine
end

