-- ==== Sys2Proof/Machine/Register.lean ====
section
/-! DEFINITION. The register commands READ_REG and WRITE_REG (R130, R131). -/

namespace Sys2Proof.Machine

/-- MemRead((a, off), 1) of R10: write the offset, read one byte. -/
def memRead (addr : Addr7) (off : Byte) : Xfer := ⟨addr, [off], 1⟩

/-- MemWrite((a, off), 1, v) of R10: write the offset and the value. -/
def memWrite (addr : Addr7) (off val : Byte) : Xfer := ⟨addr, [off, val], 0⟩

/-- R107: BYTE is the first byte read. -/
def byteResult (rb : List Byte) : Option Result :=
  match rb with
  | b :: _ => some (Result.ofByte b)
  | [] => none

/-- R106: [(ADDR7, [REG], 1)]. -/
def planReadReg (addr : Addr7) (reg : Byte) (_ : Config) (_ : PortState) : Option (List Xfer) :=
  some [memRead addr reg]

/-- R107, R130: BYTE = rb[0]. -/
def resultReadReg (_ : Config) (rb : List Byte) : Option Result := byteResult rb

/-- READ_REG (R130). -/
def execReadReg (addr : Addr7) (reg : Byte) (s : State) : Host.Outcome State Fault Refusal :=
  runBus (.readReg addr reg) (planReadReg addr reg) resultReadReg s

/-- R106: [(ADDR7, [REG, VAL], 0)]. -/
def planWriteReg (addr : Addr7) (reg val : Byte) (_ : Config) (_ : PortState) : Option (List Xfer) :=
  some [memWrite addr reg val]

/-- R107, R131: OK and no payload. -/
def resultWriteReg (_ : Config) (_ : List Byte) : Option Result := some Result.empty

/-- WRITE_REG (R131). -/
def execWriteReg (addr : Addr7) (reg val : Byte) (s : State) : Host.Outcome State Fault Refusal :=
  runBus (.writeReg addr reg val) (planWriteReg addr reg val) resultWriteReg s

end Sys2Proof.Machine
end

