-- ==== Sys2Proof/Machine/Driver.lean ====
section
/-! DEFINITION. The driver commands BIND, READ_ID, READ_RANGE and READ_SAMPLE (R150 to R158). -/

namespace Sys2Proof.Machine

/-- R151: BOUND <- 1 and ASEL <- the operand, on the submitting port. -/
def bindEffect (asel : BitVec 1) (q : PortRef) (s : State) : State × Result :=
  match q with
  | .m => (s, Result.empty)
  | .handle p => (s.setPort p { s.port p with bound := true, asel := asel }, Result.empty)

/-- BIND (R151). -/
def execBind (asel : BitVec 1) (s : State) : Host.Outcome State Fault Refusal :=
  runImmediate (.bind asel) (bindEffect asel) s

/-- R106, R153: [(A, [REG_ID], 1)]. -/
def planReadId (c : Config) (x : PortState) : Option (List Xfer) := some [memRead (devAddr c x.asel) c.regId]

/-- R107, R153: BYTE = rb[0], whatever the byte is (R157). -/
def resultReadId (_ : Config) (rb : List Byte) : Option Result := byteResult rb

/-- READ_ID (R153). -/
def execReadId (s : State) : Host.Outcome State Fault Refusal := runBus .readId planReadId resultReadId s

/-- R106, R154: [(A, [REG_CFG], 1)]. -/
def planReadRange (c : Config) (x : PortState) : Option (List Xfer) := some [memRead (devAddr c x.asel) c.regCfg]

/-- raise E_UNREACHABLE_CONFIG(0) as a result (R154, R155): no field and no payload. -/
def unreachableResult : Result := ⟨.unreachableConfig, 0#8, 0#3, none⟩

/-- R154: the setting of a configuration byte with its full scale, or the explicit outcome. -/
def rangeResult (c : Config) (cfg : Byte) : Result :=
  match fullScale (decodeRange c cfg) with
  | none => unreachableResult
  | some f => ⟨.ok, 0#8, rsetCode (decodeRange c cfg), some (.fs (fullScaleWord f))⟩

/-- R107, R154: the range of rb[0]. -/
def resultReadRange (c : Config) (rb : List Byte) : Option Result :=
  match rb with
  | b :: _ => some (rangeResult c b)
  | [] => none

/-- READ_RANGE (R154). -/
def execReadRange (s : State) : Host.Outcome State Fault Refusal := runBus .readRange planReadRange resultReadRange s

/-- R106, R155: the six sample bytes, low then high per axis, then the configuration register. -/
def planReadSample (c : Config) (x : PortState) : Option (List Xfer) :=
  some ((c.sampleRegs ++ [c.regCfg]).map (memRead (devAddr c x.asel)))

/-- R155, R185: the three axes scaled with the one range read last. -/
def sampleResult (c : Config) (rawX rawY rawZ : Half) (cfg : Byte) : Result :=
  match fullScale (decodeRange c cfg) with
  | none => unreachableResult
  | some f =>
    ⟨.ok, 0#8, rsetCode (decodeRange c cfg),
      some (.sample rawX rawY rawZ (scale rawX.toInt f) (scale rawY.toInt f) (scale rawZ.toInt f) (fullScaleWord f))⟩

/-- R107, R155: RAW from rb[0..5], the range from rb[6]. -/
def resultReadSample (c : Config) (rb : List Byte) : Option Result :=
  match rb with
  | x0 :: x1 :: y0 :: y1 :: z0 :: z1 :: cfg :: _ =>
    some (sampleResult c (assemble16 x0 x1) (assemble16 y0 y1) (assemble16 z0 z1) cfg)
  | _ => none

/-- READ_SAMPLE (R155). -/
def execReadSample (s : State) : Host.Outcome State Fault Refusal :=
  runBus .readSample planReadSample resultReadSample s

end Sys2Proof.Machine
end

