-- ==== Sys2Proof/Machine/Management.lean ====
section
/-! DEFINITION. The management commands ACQUIRE, TAKE_BUS and RUN (R112 to R114). They complete at acceptance and touch no bus. -/

namespace Sys2Proof.Machine

/-- R112: h <- NEXT_HANDLE; NEXT_HANDLE <- h + 1; BYTE = h. -/
def acquireEffect (_ : PortRef) (s : State) : State × Result :=
  ({ s with nextHandle := s.nextHandle + 1 }, Result.ofByte (s.nextHandle.setWidth 8))

/-- ACQUIRE (R112). -/
def execAcquire (s : State) : Host.Outcome State Fault Refusal := runImmediate .acquire acquireEffect s

/-- R113: BUS_OWNED <- 1. -/
def takeBusEffect (_ : PortRef) (s : State) : State × Result := ({ s with busOwned := true }, Result.empty)

/-- TAKE_BUS (R113). -/
def execTakeBus (s : State) : Host.Outcome State Fault Refusal := runImmediate .takeBus takeBusEffect s

/-- R114: PHASE <- RUN. -/
def runEffect (_ : PortRef) (s : State) : State × Result := ({ s with phase := .run }, Result.empty)

/-- RUN (R114). -/
def execRun (s : State) : Host.Outcome State Fault Refusal := runImmediate .run runEffect s

end Sys2Proof.Machine
end

