-- ==== Sys2Proof/Machine/Transact.lean ====
section
/-! DEFINITION. TRANSACT, one raw combined write-then-read transaction (R115). -/

namespace Sys2Proof.Machine

/-- R106: the one transaction [(ADDR7, WD[p], RLEN)]. It reads WD[p]. -/
def planTransact (addr : Addr7) (rlen : Byte) (_ : Config) (x : PortState) : Option (List Xfer) :=
  match x.wd with
  | some ws => some [⟨addr, ws, rlen.toNat⟩]
  | none => none

/-- R107: RDATA is the whole read buffer; the payload is present even when it is empty. -/
def resultTransact (_ : Config) (rb : List Byte) : Option Result := some ⟨.ok, 0#8, 0#3, some (.rdata rb)⟩

/-- TRANSACT (R115). -/
def execTransact (addr : Addr7) (wlen rlen : Byte) (s : State) : Host.Outcome State Fault Refusal :=
  runBus (.transact addr wlen rlen) (planTransact addr rlen) resultTransact s

end Sys2Proof.Machine
end

