-- ==== Sys2Proof/Machine/Plan.lean ====
section
/-! DEFINITION. The plan and result tables of R106 and R107 as functions of the command. -/

namespace Sys2Proof.Machine

/-- plan(CW, p) of R106, of a decoded command on a port in that state. A command that is no bus command performs no
transaction (R58). -/
def planOf (c : Config) (x : PortState) : Instr → Option (List Xfer)
  | .acquire => some []
  | .takeBus => some []
  | .run => some []
  | .bind _ => some []
  | .transact addr _ rlen => planTransact addr rlen c x
  | .readReg addr reg => planReadReg addr reg c x
  | .writeReg addr reg val => planWriteReg addr reg val c x
  | .readId => planReadId c x
  | .readRange => planReadRange c x
  | .readSample => planReadSample c x

/-- result(CW, p, rb) of R107; a command that is no bus command has none. -/
def resultOf (c : Config) (rb : List Byte) : Instr → Option Result
  | .acquire => none
  | .takeBus => none
  | .run => none
  | .bind _ => none
  | .transact _ _ _ => resultTransact c rb
  | .readReg _ _ => resultReadReg c rb
  | .writeReg _ _ _ => resultWriteReg c rb
  | .readId => resultReadId c rb
  | .readRange => resultReadRange c rb
  | .readSample => resultReadSample c rb

end Sys2Proof.Machine
end

