-- ==== Sys2Proof/Machine/Dispatch.lean ====
section
/-! DEFINITION. One arm per command, each one direct call of its meaning. -/

namespace Sys2Proof.Machine

/-- The step of command i that is due in s: its acceptance (R101) or one of its transactions (R103). -/
def exec (i : Instr) (s : State) : Host.Outcome State Fault Refusal :=
  match i with
  | .acquire => Sys2Proof.Machine.execAcquire s
  | .takeBus => Sys2Proof.Machine.execTakeBus s
  | .run => Sys2Proof.Machine.execRun s
  | .bind asel => Sys2Proof.Machine.execBind asel s
  | .transact addr wlen rlen => Sys2Proof.Machine.execTransact addr wlen rlen s
  | .readReg addr reg => Sys2Proof.Machine.execReadReg addr reg s
  | .writeReg addr reg val => Sys2Proof.Machine.execWriteReg addr reg val s
  | .readId => Sys2Proof.Machine.execReadId s
  | .readRange => Sys2Proof.Machine.execReadRange s
  | .readSample => Sys2Proof.Machine.execReadSample s

end Sys2Proof.Machine
end

