-- ==== Sys2Proof/Machine/Fetch.lean ====
section
/-! DEFINITION. The block fetches no instructions (R68): a command is delivered by value at submission, and a perform step reads
the command its port has latched. This file says which command the due step belongs to, and places a command so that it
is the next one due. -/

namespace Sys2Proof.Machine

/-- What the next submission or perform turn comes to. -/
inductive Fetched where
  /-- No command step is enabled: the turn passes. -/
  | pass
  /-- R79, R80: the submitted word is Illegal. -/
  | illegal (q : PortRef) (sub : Submission)
  /-- The due step is one of command i. -/
  | run (i : Instr)
  /-- The step would read a command that is not there. -/
  | fault (f : Fault)
  deriving DecidableEq, Repr

/-- The command of the due step: the submitted word's (R101), or that of CMD[p] (R103). -/
def fetch (s : State) : Fetched :=
  match s.due with
  | .nothing => .pass
  | .accept q sub =>
    match decodeWord sub.cw with
    | .ok i => .run i
    | .error _ => .illegal q sub
  | .perform p _ =>
    match (s.port p).cmd with
    | none => .fault .noValue
    | some cw =>
      match decodeWord cw with
      | .ok i => .run i
      | .error _ => .fault .undecodable

/-- The port a command word belongs on: M for ACQUIRE, TAKE_BUS and RUN, else P0 (R83). -/
def homePort (cw : Word) : PortRef :=
  match decodeWord cw with
  | .ok i => if i.isManagement then .m else .handle 0
  | .error _ => .handle 0

/-- A data lane of zeros of the length the command asks for (R82). -/
def zeroLane (cw : Word) : List Byte :=
  match decodeWord cw with
  | .ok i => List.replicate i.laneLength 0#8
  | .error _ => []

/-- Port q is made idle: no command outstanding on it, and the lock free if q held it. -/
def idlePort (q : PortRef) (s : State) : State :=
  match q with
  | .m => { s with mst := .idle, mrsp := none }
  | .handle p =>
    { s with lock := if s.lock = some p then none else s.lock }.setPort p
      { s.port p with pst := .idle, cmd := none, wd := none, rsp := none }

/-- The requester of q holds this command before all others, and its turn to submit comes next. -/
def offerNow (q : PortRef) (sub : Submission) (s : State) : State :=
  match q with
  | .m => { s with mOffers := sub :: s.mOffers, turns := .submit .m :: s.turns }
  | .handle p =>
    { s with offers := s.offers.set p.val (sub :: s.offers[p.val]), turns := .submit (.handle p) :: s.turns }

/-- The command placed so that the next step is its submission. -/
def placeCommand (s : State) (cw : Word) : State :=
  offerNow (homePort cw) ⟨cw, zeroLane cw⟩ (idlePort (homePort cw) s)

end Sys2Proof.Machine
end

