-- ==== Sys2Proof/Machine/Step.lean ====
section
/-! DEFINITION. One step of the machine: the next turn is given to its agent (R11, R100 to R108). -/

namespace Sys2Proof.Machine

/-- The command step the next turn enables, if any: an Illegal word completes at once, a command runs, and without an enabled
step the turn passes. -/
def runDue (s : State) : Host.Outcome State Fault Refusal :=
  match fetch s with
  | .pass => .next s.passTurn
  | .illegal q sub => .next (acceptIllegal q sub s)
  | .run i => exec i s
  | .fault f => .fault f

/-- One turn. A submission or a perform step runs the command it belongs to; a turn whose agent has no enabled step passes;
with no turn to come, nothing happens. -/
def step (s : State) : Host.Outcome State Fault Refusal :=
  match s.turns with
  | [] => .next s
  | .reset :: _ => .next (resetBlock s)
  | .arbiter choice :: _ => .next (grant choice s)
  | .take q :: _ => take q s
  | .submit _ :: _ => runDue s
  | .channel _ _ :: _ => runDue s

/-- s with the word of an opcode-table row as the next command the block takes in: its port (M or P0) is idle, its requester
holds it first, and that requester's turn comes next. -/
def State.withFetchWord (s : State) (nbits w : Nat) : State := placeCommand s (tableWord nbits w)

end Sys2Proof.Machine
end

