-- ==== Sys2Proof/Machine/Assembler.lean ====
section
/-! DEFINITION. The assembler of R92 and the pseudo-commands of R93: a line of text to the port and the submission it stands for.
No step of the block uses it; it says which submission a written command is. -/

namespace Sys2Proof.Machine

/-! ## Commands and their words -/

/-- A command as it is written, its numbers of any size (R92), with the two pseudo-commands of R93. -/
inductive AsmCommand where
  | acquire
  | takeBus
  | run
  /-- AD0 or AD1. -/
  | bind (asel : BitVec 1)
  | transact (addr : Nat) (ws : List Nat) (rlen : Nat)
  | readReg (addr reg : Nat)
  | writeReg (addr reg val : Nat)
  | readId
  | readRange
  | readSample
  /-- START_MEAS addr, ws. -/
  | startMeas (addr : Nat) (ws : List Nat)
  /-- FETCH addr, m. -/
  | fetch (addr m : Nat)
  deriving DecidableEq, Repr

/-- The field of w bits that holds n, if n fits it (R92). -/
def asField (w n : Nat) : Option (BitVec w) := if n < 2 ^ w then some (BitVec.ofNat w n) else none

/-- The bytes of a write list, if every one fits a byte. -/
def asBytes : List Nat → Option (List Byte)
  | [] => some []
  | n :: ns =>
    match asField 8 n, asBytes ns with
    | some b, some bs => some (b :: bs)
    | _, _ => none

/-- TRANSACT addr, ws, rlen: refused when an operand does not fit its field or the lengths break R81. -/
def assembleTransact (c : Config) (addr : Nat) (ws : List Nat) (rlen : Nat) : Option Submission :=
  match asField 7 addr, asBytes ws, asField 8 ws.length, asField 8 rlen with
  | some a, some bs, some n, some m =>
    if (Instr.transact a n m).wf c then some ⟨encode (.transact a n m), bs⟩ else none
  | _, _, _, _ => none

/-- The word and data lane of a written command; none when the assembler refuses it (R92, R93). -/
def assemble (c : Config) : AsmCommand → Option Submission
  | .acquire => some ⟨encode .acquire, []⟩
  | .takeBus => some ⟨encode .takeBus, []⟩
  | .run => some ⟨encode .run, []⟩
  | .bind a => some ⟨encode (.bind a), []⟩
  | .transact addr ws rlen => assembleTransact c addr ws rlen
  | .readReg addr reg =>
    match asField 7 addr, asField 8 reg with
    | some a, some r => some ⟨encode (.readReg a r), []⟩
    | _, _ => none
  | .writeReg addr reg val =>
    match asField 7 addr, asField 8 reg, asField 8 val with
    | some a, some r, some v => some ⟨encode (.writeReg a r v), []⟩
    | _, _, _ => none
  | .readId => some ⟨encode .readId, []⟩
  | .readRange => some ⟨encode .readRange, []⟩
  | .readSample => some ⟨encode .readSample, []⟩
  | .startMeas addr ws => assembleTransact c addr ws 0
  | .fetch addr m => assembleTransact c addr [] m

/-! ## Text -/

/-- A token of a line. -/
inductive Token where
  | word (cs : List Char)
  | num (n : Nat)
  | comma
  | lbrack
  | rbrack
  | colon
  deriving DecidableEq, Repr

/-- The value of a digit in a base up to 16. -/
def digitValue (base : Nat) (ch : Char) : Option Nat :=
  let v :=
    if '0'.toNat ≤ ch.toNat ∧ ch.toNat ≤ '9'.toNat then ch.toNat - '0'.toNat
    else if 'a'.toNat ≤ ch.toNat ∧ ch.toNat ≤ 'f'.toNat then ch.toNat - 'a'.toNat + 10
    else if 'A'.toNat ≤ ch.toNat ∧ ch.toNat ≤ 'F'.toNat then ch.toNat - 'A'.toNat + 10
    else 16
  if v < base then some v else none

/-- A non-empty run of digits, most significant first, after the value read so far. -/
def readDigits (base : Nat) (soFar : Nat) : List Char → Option Nat
  | [] => some soFar
  | ch :: cs =>
    match digitValue base ch with
    | some v => readDigits base (soFar * base + v) cs
    | none => none

/-- A number, hexadecimal with 0x or decimal (R92). -/
def readNumber : List Char → Option Nat
  | '0' :: 'x' :: ch :: cs => readDigits 16 0 (ch :: cs)
  | ch :: cs => readDigits 10 0 (ch :: cs)
  | [] => none

/-- The token of a run of word characters: a number when it begins with a digit. -/
def wordToken (cs : List Char) : Option Token :=
  match cs with
  | [] => none
  | ch :: _ => if (digitValue 10 ch).isSome then (readNumber cs).map .num else some (.word cs)

/-- The characters of names and numbers. -/
def isWordChar (ch : Char) : Bool := ch.isAlphanum || ch == '_'

/-- The punctuation marks; a blank is none of them. -/
def punctuation (ch : Char) : Option (List Token) :=
  if ch = ',' then some [.comma]
  else if ch = '[' then some [.lbrack]
  else if ch = ']' then some [.rbrack]
  else if ch = ':' then some [.colon]
  else if ch = ' ' then some []
  else none

/-- The tokens of a line; run is the word read so far, last character first. -/
def tokens (run : List Char) : List Char → Option (List Token)
  | [] => if run = [] then some [] else (wordToken run.reverse).map fun t => [t]
  | ch :: cs =>
    if isWordChar ch then tokens (ch :: run) cs
    else
      match punctuation ch, tokens [] cs with
      | some ps, some ts => if run = [] then some (ps ++ ts) else (wordToken run.reverse).map fun t => t :: (ps ++ ts)
      | _, _ => none

/-- The numbers after the first one of a list, up to its closing bracket. -/
def listTail : List Token → Option (List Nat × List Token)
  | .rbrack :: ts => some ([], ts)
  | .comma :: .num n :: ts => (listTail ts).map fun (ns, rest) => (n :: ns, rest)
  | _ => none

/-- A bracketed list of numbers. -/
def readList : List Token → Option (List Nat × List Token)
  | .lbrack :: .rbrack :: ts => some ([], ts)
  | .lbrack :: .num n :: ts => (listTail ts).map fun (ns, rest) => (n :: ns, rest)
  | _ => none

/-- TRANSACT's and START_MEAS's operands: an address and a list, and what follows. -/
def readAddrList : List Token → Option (Nat × List Nat × List Token)
  | .num a :: .comma :: ts => (readList ts).map fun (ws, rest) => (a, ws, rest)
  | _ => none

/-- The command of a line after its port prefix (R92, R93). -/
def readCommand : List Token → Option AsmCommand
  | .word m :: ts =>
    if m = "ACQUIRE".toList then (if ts = [] then some .acquire else none)
    else if m = "TAKE_BUS".toList then (if ts = [] then some .takeBus else none)
    else if m = "RUN".toList then (if ts = [] then some .run else none)
    else if m = "READ_ID".toList then (if ts = [] then some .readId else none)
    else if m = "READ_RANGE".toList then (if ts = [] then some .readRange else none)
    else if m = "READ_SAMPLE".toList then (if ts = [] then some .readSample else none)
    else if m = "BIND".toList then
      (if ts = [.word "AD0".toList] then some (.bind 0#1)
       else if ts = [.word "AD1".toList] then some (.bind 1#1) else none)
    else if m = "READ_REG".toList then
      match ts with
      | [.num a, .comma, .num r] => some (.readReg a r)
      | _ => none
    else if m = "WRITE_REG".toList then
      match ts with
      | [.num a, .comma, .num r, .comma, .num v] => some (.writeReg a r v)
      | _ => none
    else if m = "FETCH".toList then
      match ts with
      | [.num a, .comma, .num n] => some (.fetch a n)
      | _ => none
    else if m = "TRANSACT".toList then
      match readAddrList ts with
      | some (a, ws, [.comma, .num n]) => some (.transact a ws n)
      | _ => none
    else if m = "START_MEAS".toList then
      match readAddrList ts with
      | some (a, ws, []) => some (.startMeas a ws)
      | _ => none
    else none
  | _ => none

/-- The port prefix M: or P<h>:, which may be left out (R92). -/
def readPrefix : List Token → Option (Option PortRef × List Token)
  | .word ['M'] :: .colon :: ts => some (some .m, ts)
  | .word ('P' :: ch :: cs) :: .colon :: ts =>
    match readDigits 10 0 (ch :: cs) with
    | some n => if h : n < 16 then some (some (.handle ⟨n, h⟩), ts) else none
    | none => none
  | ts => some (none, ts)

/-- One line of R92: the port it names, if any, and the submission it stands for; none when the assembler refuses it. -/
def assembleLine (c : Config) (line : List Char) : Option (Option PortRef × Submission) :=
  match tokens [] line with
  | none => none
  | some ts =>
    match readPrefix ts with
    | none => none
    | some (q, rest) =>
      match readCommand rest with
      | none => none
      | some a =>
        match assemble c a with
        | none => none
        | some sub => some (q, sub)

end Sys2Proof.Machine
end

