-- ==== Sys2Proof/Safety.lean ====
section
/-! DEFINITION. The terms claims are stated in: outcomes and runs, what a state of the block must satisfy (R40 and the rules that
say when a field holds a value), and what its event history and its responses must look like. -/

namespace Sys2Proof.Machine

/-! ## Commands on ports -/

/-- The command of port p is outstanding on the bus side: accepted, and not yet completed (R26: WAIT or BUS). -/
def PortState.pending (x : PortState) : Prop := x.pst = .wait ∨ x.pst = .bus

/-- The command latched on port p is i, legal with the latched data lane, and its plan is xs (R85, R106). -/
def Latched (s : State) (p : PortId) (i : Instr) (xs : List Xfer) : Prop :=
  ∃ cw ws, (s.port p).cmd = some cw ∧ (s.port p).wd = some ws ∧ decode s.cfg cw ws = .ok i ∧
    planOf s.cfg (s.port p) i = some xs

/-- The number of bytes the first n transactions of a plan read. -/
def bytesRead (xs : List Xfer) (n : Nat) : Nat := ((xs.take n).map Xfer.m).sum

/-! ## The invariant -/

/-- What every state of the block satisfies. Items 1, 2, 4 and 5 of R40 (item 3 compares two states), the configuration's
legal values (R6), and the fields that hold a value exactly in some PST (R27, R30, R31). -/
structure Inv (s : State) : Prop where
  /-- R6. -/
  cfgWf : s.cfg.wf
  /-- R40, item 1. -/
  lockIsBus : ∀ p, s.lock = some p ↔ (s.port p).pst = .bus
  /-- R40, item 2. -/
  pendingReady : ∀ p, (s.port p).pending → s.busOwned = true ∧ p.val < s.nextHandle.toNat
  /-- R40, item 4. -/
  handlesWithinH : s.nextHandle.toNat ≤ s.cfg.h
  /-- R40, item 5, with what makes its plan meaningful: the latched command is a legal bus command, its port is bound if it
  is a driver command, and RBUF holds the bytes of the transactions performed so far (R29). -/
  pendingPlan : ∀ p, (s.port p).pending → ∃ i xs, Latched s p i xs ∧ i.isBus = true ∧
    (i.isDriver = true → (s.port p).bound = true) ∧ (s.port p).step.toNat < xs.length ∧
    (s.port p).rbuf.length = bytesRead xs (s.port p).step.toNat
  /-- R27: CMD and WD hold a value exactly while the port is not IDLE. -/
  cmdWhileBusy : ∀ p, ((s.port p).cmd.isSome = true ↔ (s.port p).pst ≠ .idle) ∧
    ((s.port p).wd.isSome = true ↔ (s.port p).pst ≠ .idle)
  /-- R27: the length of WD. -/
  wdWithinBounds : ∀ p, ∀ ws ∈ (s.port p).wd, ws.length ≤ s.cfg.wmax
  /-- R30: RSP holds a value exactly while the port is DONE. -/
  rspWhileDone : ∀ p, (s.port p).rsp.isSome = true ↔ (s.port p).pst = .done
  /-- R31: MRSP holds a value exactly while M is DONE. -/
  mrspWhileDone : s.mrsp.isSome = true ↔ s.mst = .done
  /-- R29: the length of RBUF. -/
  rbufWithinBounds : ∀ p, (s.port p).rbuf.length ≤ max s.cfg.rmax 7
  /-- R20: there are H ports; the names from H on hold nothing. -/
  absentPorts : ∀ p : PortId, s.cfg.h ≤ p.val → s.port p = PortState.reset
  /-- R111: the port granted most recently is a port. -/
  lastIsPort : s.arbLast.val < s.cfg.h

/-! ## The event history -/

/-- R109 and R81: every recorded transaction moves at least one byte, and its outcome is one the channel may give. -/
def LawfulHistory (s : State) : Prop :=
  ∀ e ∈ s.history, e.xfer.admits e.outcome = true ∧ 1 ≤ e.xfer.ws.length + e.xfer.m

/-- The events of port p, oldest first. -/
def eventsOf (p : PortId) (history : List BusEvent) : List BusEvent := history.filter fun e => decide (e.port = p)

/-- R64 item 2, R29, R61: the latest events of a port with an outstanding command are the transactions of its plan up to
STEP, each once, in plan order and answered Ok, and RBUF holds the bytes they read, in order. -/
def EventsFollowPlans (s : State) : Prop :=
  ∀ p, (s.port p).pending → ∃ i xs earlier, ∃ bytes : List (List Byte), Latched s p i xs ∧
    bytes.length = (s.port p).step.toNat ∧ (s.port p).rbuf = bytes.flatten ∧
    eventsOf p s.history = earlier ++
      (List.zip (xs.take (s.port p).step.toNat) bytes).map fun (x, rs) => ⟨p, x, .ok rs⟩

/-! ## Responses -/

/-- STATUS of a response word (R86). -/
def statusField (rw : Word) : Byte := rw.extractLsb' 0 8
/-- STEP of a response word (R86). -/
def stepField (rw : Word) : BitVec 3 := rw.extractLsb' 8 3
/-- BYTE of a response word (R86). -/
def byteField (rw : Word) : Byte := rw.extractLsb' 16 8
/-- RSET of a response word (R86). -/
def rsetField (rw : Word) : BitVec 3 := rw.extractLsb' 24 3

/-- The codes of R88 that are ever produced: all of them but E_UNREACHABLE_CONFIG (R188). -/
def producedCodes : List Byte :=
  [0x00#8, 0x01#8, 0x02#8, 0x10#8, 0x11#8, 0x12#8, 0x13#8, 0x14#8, 0x15#8, 0x16#8, 0x17#8, 0x18#8]

/-- What R86 to R89 say of every response. -/
structure Response.Canonical (r : Response) : Prop where
  zeros : r.rw.extractLsb' 27 5 = 0#5 ∧ r.rw.extractLsb' 11 5 = 0#5
  code : statusField r.rw ∈ producedCodes
  stepOnlyOnTransport : stepField r.rw ≠ 0#3 → statusField r.rw = 0x01#8 ∨ statusField r.rw = 0x02#8
  stepAtMostSix : (stepField r.rw).toNat ≤ 6
  onError : statusField r.rw ≠ 0x00#8 → byteField r.rw = 0#8 ∧ rsetField r.rw = 0#3 ∧ r.payload = none
  range : (rsetField r.rw).toNat ≤ 3

/-- Every response the block holds or has delivered is canonical. -/
def CanonicalResponses (s : State) : Prop :=
  (∀ p r, (s.port p).rsp = some r → r.Canonical) ∧ (∀ r, s.mrsp = some r → r.Canonical) ∧
  (∀ e ∈ s.delivered, e.2.Canonical)

/-! ## binary32 values -/

/-- The finite binary32 patterns (R90). -/
def FiniteWord (w : Word) : Prop := w.extractLsb' 23 8 ≠ 0xFF#8

/-- The magnitude of a finite binary32 pattern in units of 2^(-149), the smallest positive value (R90). -/
def magnitudeUnits (w : Word) : Nat :=
  if (w.extractLsb' 23 8).toNat = 0 then (w.extractLsb' 0 23).toNat
  else (2 ^ 23 + (w.extractLsb' 0 23).toNat) * 2 ^ ((w.extractLsb' 23 8).toNat - 1)

/-- The value of a finite binary32 pattern in units of 2^(-149) (R90). -/
def valueUnits (w : Word) : Int :=
  if w.extractLsb' 31 1 = 1#1 then -(magnitudeUnits w : Int) else magnitudeUnits w

/-! ## Next states a claim can write down

Each says which fields change and leaves every other one as it was. -/

/-- After a submission on M that completed with the response r: the turn and the offer are used up, M is DONE. -/
def afterSubmitM (s : State) (r : Response) : State :=
  { s with turns := s.turns.tail, mOffers := s.mOffers.tail, mst := .done, mrsp := some r }

/-- After a submission of the word cw on handle port p: the turn and the offer are used up, and port p is x with cw in CMD and
ws in WD. -/
def afterSubmit (s : State) (p : PortId) (cw : Word) (ws : List Byte) (x : PortState) : State :=
  { s with
    turns := s.turns.tail, offers := s.offers.set p.val (s.offers[p.val]).tail,
    ports := s.ports.set p.val { x with cmd := some cw, wd := some ws } }

/-- After the transaction x of port p met the outcome o: the turn is used up, the lock is free, the event is the last of the
history, and port p is y. -/
def afterTransaction (s : State) (p : PortId) (x : Xfer) (o : ChanOutcome) (y : PortState) : State :=
  { s with
    turns := s.turns.tail, lock := none, history := s.history ++ [⟨p, x, o⟩], ports := s.ports.set p.val y }

/-- The same port with the response r, DONE. -/
def PortState.doneWith (x : PortState) (r : Response) : PortState := { x with pst := .done, rsp := some r }

/-- The four settings, each with the response word of an OK result that carries its RSET, its binary32 full scale and its
full scale (R86, R89, R90, R182). -/
def settings : List (RangeSetting × Word × Word × Nat) :=
  [(.fs2, 0x00000000#32, 0x40000000#32, 2), (.fs4, 0x01000000#32, 0x40800000#32, 4),
   (.fs8, 0x02000000#32, 0x41000000#32, 8), (.fs16, 0x03000000#32, 0x41800000#32, 16)]

/-! ## Turns -/

/-- The turns that give port p the lock and answer its transactions with Ok, one after the other. -/
def serveTurns (p : PortId) (answers : List (List Byte)) : List Turn :=
  answers.flatMap fun rs => [.arbiter p, .channel p (.ok rs)]

/-- How many grants away port p is under the reference policy: 0 when the next grant, if p waits, is p's (R111). -/
def roundRobinDistance (s : State) (p : PortId) : Nat := (p.val + s.cfg.h - (s.arbLast.val + 1) % s.cfg.h) % s.cfg.h

end Sys2Proof.Machine
end

