-- ==== Sys2Proof/Certificates/Slice0/Obligations.lean ====
section
/-! DEFINITION. The statements for the provers. Each docstring names the rules of the spec it formalises. A statement about a next
state writes that state down with the updates of Safety.lean, which name every field they change: its frame is part of it.
In all of them, that a step uses up its turn is the model's (log entry 2), that a submission uses up the oldest command its
requester holds is the model's (log entry 24), and history and delivered are records (R55, R108, log entry 8). -/

open Sys2Proof Sys2Proof.Machine

/-! ## Encoding -/

/-- R72 to R75, R78: decoding the word of a command gives the command back, every operand at every value of its field. -/
def Obligations.DecodeReadsBackEveryEncoding : Prop :=
  ∀ i : Instr, decodeWord (encode i) = .ok i

/-- R78, R80: no bit of a word that decodes is dropped; encoding what was read gives the word back. -/
def Obligations.EncodeReadsBackEveryDecoding : Prop :=
  ∀ (w : Word) (i : Instr), decodeWord w = .ok i → encode i = w

/-- R78, R85: a word decodes exactly when it matches a row of the opcode table, it matches at most one, and the command read
is the matching row's. -/
def Obligations.DecodingFollowsTheOpcodeTable : Prop :=
  ∀ w : Word,
    ((∃ i, decodeWord w = .ok i) ↔ ∃ r ∈ opcodeTable, w &&& r.mask = r.matchBits) ∧
    (∀ r ∈ opcodeTable, ∀ r' ∈ opcodeTable, w &&& r.mask = r.matchBits → w &&& r'.mask = r'.matchBits → r = r') ∧
    (∀ i, decodeWord w = .ok i → i.row ∈ opcodeTable ∧ w &&& i.row.mask = i.row.matchBits)

/-- R79, R80: the reserved opcodes are 0x0 and 0xB to 0xF, and a word with a defined opcode that does not match its row has a
reserved bit set. -/
def Obligations.ReservedOpcodesAndBitsAreIllegal : Prop :=
  ∀ w : Word,
    (decodeWord w = .error .reservedOpcode ↔ w.toNat % 16 = 0 ∨ 11 ≤ w.toNat % 16) ∧
    (decodeWord w = .error .reservedBits ↔
      (1 ≤ w.toNat % 16 ∧ w.toNat % 16 ≤ 10) ∧ ∀ r ∈ opcodeTable, w &&& r.mask ≠ r.matchBits)

/-- R81, R82, R85: decode(CW, WS) is the command of the word's row, provided a TRANSACT keeps its lengths and its lane, and
every other command's lane is empty; otherwise it is Illegal. -/
def Obligations.LengthsAndLaneDecideLegality : Prop :=
  ∀ (c : Config) (w : Word) (ws : List Byte),
    (∀ i, decode c w ws = .ok i → decodeWord w = .ok i) ∧
    (∀ a n m, decodeWord w = .ok (.transact a n m) →
      (decode c w ws = .ok (.transact a n m) ↔
        n.toNat ≤ c.wmax ∧ m.toNat ≤ c.rmax ∧ n.toNat + m.toNat ≠ 0 ∧ ws.length = n.toNat)) ∧
    (∀ i, decodeWord w = .ok i → (∀ a n m, i ≠ .transact a n m) → (decode c w ws = .ok i ↔ ws = []))

/-- R73 to R75, R77: every operand is an unsigned field of the word, taken as it is. -/
def Obligations.OperandsAreUnsignedFields : Prop :=
  ∀ w : Word,
    (∀ a, decodeWord w = .ok (.bind a) → a.toNat = w.toNat / 2 ^ 4 % 2) ∧
    (∀ a n m, decodeWord w = .ok (.transact a n m) →
      a.toNat = w.toNat / 2 ^ 4 % 2 ^ 7 ∧ n.toNat = w.toNat / 2 ^ 16 % 2 ^ 8 ∧ m.toNat = w.toNat / 2 ^ 24) ∧
    (∀ a r, decodeWord w = .ok (.readReg a r) →
      a.toNat = w.toNat / 2 ^ 4 % 2 ^ 7 ∧ r.toNat = w.toNat / 2 ^ 16 % 2 ^ 8) ∧
    (∀ a r v, decodeWord w = .ok (.writeReg a r v) →
      a.toNat = w.toNat / 2 ^ 4 % 2 ^ 7 ∧ r.toNat = w.toNat / 2 ^ 16 % 2 ^ 8 ∧ v.toNat = w.toNat / 2 ^ 24)

/-- 95_test_vectors.md L2.1: words of every format decode to the commands the spec lists beside them. -/
def Obligations.ListedWordsDecodeAsListed : Prop :=
  decodeWord 0x00000001#32 = .ok .acquire ∧ decodeWord 0x00000014#32 = .ok (.bind 1#1) ∧
  decodeWord 0x01010685#32 = .ok (.transact 0x68#7 1#8 1#8) ∧ decodeWord 0x00750686#32 = .ok (.readReg 0x68#7 0x75#8) ∧
  decodeWord 0xFF2107F7#32 = .ok (.writeReg 0x7F#7 0x21#8 0xFF#8) ∧ decodeWord 0x0000000A#32 = .ok .readSample ∧
  decodeWord 0x00000011#32 = .error .reservedBits ∧ decodeWord 0x01010E85#32 = .error .reservedBits ∧
  decodeWord 0x00000000#32 = .error .reservedOpcode ∧ decodeWord 0xFFFFFFFF#32 = .error .reservedOpcode

/-- R92, R93: the assembler's word and lane decode, under the same configuration, to a command; an accepted TRANSACT,
START_MEAS or FETCH is the TRANSACT of its operands. -/
def Obligations.AssembledCommandsDecode : Prop :=
  ∀ (c : Config) (a : AsmCommand) (sub : Submission), assemble c a = some sub →
    (∃ i, decode c sub.cw sub.ws = .ok i) ∧
    (∀ addr ws rlen, (a = .transact addr ws rlen ∨ (a = .startMeas addr ws ∧ rlen = 0) ∨ (a = .fetch addr rlen ∧ ws = [])) →
      addr < 128 ∧ sub.ws.map BitVec.toNat = ws ∧
      decode c sub.cw sub.ws =
        .ok (.transact (BitVec.ofNat 7 addr) (BitVec.ofNat 8 ws.length) (BitVec.ofNat 8 rlen)))

/-! ## Submission and its checks -/

/-- R100: a submission is taken in only when its port is idle. That the requester whose turn it is submits the oldest command it
holds is the model's choice (log entries 2 and 24). A handle port is one of the H ports (R20, R52, the names from H on: log
entry 13). -/
def Obligations.SubmissionNeedsAnIdlePort : Prop :=
  ∀ (s : State) (q : PortRef) (sub : Submission), s.due = .accept q sub ↔
    (∃ ts, s.turns = .submit q :: ts) ∧
    ((q = .m ∧ s.mst = .idle ∧ ∃ os, s.mOffers = sub :: os) ∨
     (∃ p, q = .handle p ∧ p.val < s.cfg.h ∧ (s.port p).pst = .idle ∧ ∃ os, s.offers[p.val] = sub :: os))

/-- R100, R233: a submission on a busy port waits; nothing changes but the turn, which is used up (log entry 2). -/
def Obligations.SubmissionOnABusyPortWaits : Prop :=
  ∀ (s : State) (ts : List Turn),
    (s.turns = .submit .m :: ts → s.mst = .done → step s = .next { s with turns := ts }) ∧
    (∀ p, s.turns = .submit (.handle p) :: ts → (s.port p).pst ≠ .idle → step s = .next { s with turns := ts })

/-- R100, R101, R103: a step runs the command of the submission taken in, or the latched command of the port that performs. -/
def Obligations.StepRunsTheDecodedCommand : Prop :=
  ∀ (s : State) (i : Instr),
    (∀ q sub, s.due = .accept q sub → decode s.cfg sub.cw sub.ws = .ok i → step s = exec i s) ∧
    (∀ p o cw, s.due = .perform p o → (s.port p).cmd = some cw → decodeWord cw = .ok i → step s = exec i s)

/-- R79 to R82, R100: an Illegal submission completes at once with E_ILLEGAL and issues no transaction. Its only other effect is
that of the submission itself: a handle port latches the word and the data lane (R100), of which WD keeps at most the first
WMAX bytes, the model's choice for a lane that breaks R27's bound (log entry 12). -/
def Obligations.IllegalSubmissionCompletesAtOnce : Prop :=
  ∀ (s : State) (cw : Word) (ws : List Byte) (e : DecodeError), decode s.cfg cw ws = .error e →
    (s.due = .accept .m ⟨cw, ws⟩ → step s = .next (afterSubmitM s ⟨0x00000010#32, none⟩)) ∧
    (∀ p, s.due = .accept (.handle p) ⟨cw, ws⟩ →
      step s = .next (afterSubmit s p cw (ws.take s.cfg.wmax) ((s.port p).doneWith ⟨0x00000010#32, none⟩)))

/-- R204: each status of check(q, c) is returned exactly when its check fails and every earlier one passed. -/
def Obligations.FirstFailingCheckIsReported : Prop :=
  ∀ (s : State) (ws : List Byte) (i : Instr) (q : PortRef),
    (check s q ws i = .illegal ↔ i.legal s.cfg ws = false) ∧
    (check s q ws i = .wrongPort ↔ i.legal s.cfg ws = true ∧ ¬(i.isManagement = true ↔ q = .m)) ∧
    (check s q ws i = .notAcquired ↔
      i.legal s.cfg ws = true ∧ i.isManagement = false ∧ ∃ p, q = .handle p ∧ ¬ p.val < s.nextHandle.toNat) ∧
    (check s q ws i = .phase ↔
      i.legal s.cfg ws = true ∧ q = .m ∧ (i = .acquire ∨ i = .run) ∧ s.phase = .run) ∧
    (check s q ws i = .handlesExhausted ↔
      i.legal s.cfg ws = true ∧ q = .m ∧ i = .acquire ∧ s.phase = .setup ∧ s.nextHandle.toNat = s.cfg.h) ∧
    (check s q ws i = .busTaken ↔ i.legal s.cfg ws = true ∧ q = .m ∧ i = .takeBus ∧ s.busOwned = true) ∧
    (check s q ws i = .alreadyBound ↔
      i.legal s.cfg ws = true ∧ ∃ p, q = .handle p ∧ p.val < s.nextHandle.toNat ∧ (∃ a, i = .bind a) ∧
        (s.port p).bound = true) ∧
    (check s q ws i = .notBound ↔
      i.legal s.cfg ws = true ∧ ∃ p, q = .handle p ∧ p.val < s.nextHandle.toNat ∧ i.isDriver = true ∧
        (s.port p).bound = false) ∧
    (check s q ws i = .busNotOwned ↔
      i.legal s.cfg ws = true ∧ ∃ p, q = .handle p ∧ p.val < s.nextHandle.toNat ∧ i.isBus = true ∧
        (i.isDriver = true → (s.port p).bound = true) ∧ s.busOwned = false) ∧
    check s q ws i ≠ .transportWrite ∧ check s q ws i ≠ .transportRead ∧ check s q ws i ≠ .unreachableConfig

/-- R202, R203: a command that fails a check changes no state except completing the port's response with that status, and issues
no transaction. On a handle port the word and the lane are latched (R100), of an Illegal lane at most the first WMAX bytes
(log entry 12). -/
def Obligations.RefusedCommandOnlyCompletes : Prop :=
  ∀ (s : State) (i : Instr) (cw : Word) (ws : List Byte),
    (s.due = .accept .m ⟨cw, ws⟩ → check s .m ws i ≠ .ok →
      exec i s = .next (afterSubmitM s ⟨(check s .m ws i).code.setWidth 32, none⟩)) ∧
    (∀ p, s.due = .accept (.handle p) ⟨cw, ws⟩ → check s (.handle p) ws i ≠ .ok →
      exec i s = .next (afterSubmit s p cw (ws.take s.cfg.wmax)
        ((s.port p).doneWith ⟨(check s (.handle p) ws i).code.setWidth 32, none⟩)))

/-- R83: a legal management command on a handle port, or a legal handle command on M, completes with E_WRONG_PORT and has no
other effect than the submission's own (R100). -/
def Obligations.WrongClassOfPortIsReported : Prop :=
  ∀ (s : State) (i : Instr) (cw : Word) (ws : List Byte), i.legal s.cfg ws = true →
    (i ∉ [.acquire, .takeBus, .run] → s.due = .accept .m ⟨cw, ws⟩ →
      exec i s = .next (afterSubmitM s ⟨0x00000011#32, none⟩)) ∧
    (∀ p, i ∈ [.acquire, .takeBus, .run] → s.due = .accept (.handle p) ⟨cw, ws⟩ →
      exec i s = .next (afterSubmit s p cw ws ((s.port p).doneWith ⟨0x00000011#32, none⟩)))

/-! ## The commands that complete at acceptance -/

/-- R112: ACQUIRE in SETUP with a handle left gives handle NEXT_HANDLE in BYTE and increments NEXT_HANDLE. -/
def Obligations.AcquireGivesTheNextHandle : Prop :=
  ∀ (s : State) (cw : Word), s.due = .accept .m ⟨cw, []⟩ → s.phase = .setup → s.nextHandle.toNat ≠ s.cfg.h →
    exec .acquire s = .next
      { afterSubmitM s ⟨s.nextHandle.setWidth 32 <<< 16, none⟩ with nextHandle := s.nextHandle + 1 }

/-- R113: the first TAKE_BUS takes the bus. -/
def Obligations.TakeBusTakesTheBus : Prop :=
  ∀ (s : State) (cw : Word), s.due = .accept .m ⟨cw, []⟩ → s.busOwned = false →
    exec .takeBus s = .next { afterSubmitM s ⟨0x00000000#32, none⟩ with busOwned := true }

/-- R114: RUN in SETUP begins normal operation. -/
def Obligations.RunBeginsNormalOperation : Prop :=
  ∀ (s : State) (cw : Word), s.due = .accept .m ⟨cw, []⟩ → s.phase = .setup →
    exec .run s = .next { afterSubmitM s ⟨0x00000000#32, none⟩ with phase := .run }

/-- R112 to R114, R151: the errors of the commands that complete at acceptance, with nothing else changed: E_PHASE for ACQUIRE
and RUN in RUN, E_HANDLES_EXHAUSTED for ACQUIRE with no handle left, E_BUS_TAKEN for a second TAKE_BUS, E_NOT_ACQUIRED and
E_ALREADY_BOUND for BIND. -/
def Obligations.ImmediateCommandsFailFast : Prop :=
  ∀ (s : State) (cw : Word),
    (s.due = .accept .m ⟨cw, []⟩ →
      (s.phase = .run → exec .acquire s = .next (afterSubmitM s ⟨0x00000014#32, none⟩)) ∧
      (s.phase = .setup → s.nextHandle.toNat = s.cfg.h →
        exec .acquire s = .next (afterSubmitM s ⟨0x00000013#32, none⟩)) ∧
      (s.busOwned = true → exec .takeBus s = .next (afterSubmitM s ⟨0x00000015#32, none⟩)) ∧
      (s.phase = .run → exec .run s = .next (afterSubmitM s ⟨0x00000014#32, none⟩))) ∧
    (∀ (p : PortId) (a : BitVec 1), s.due = .accept (.handle p) ⟨cw, []⟩ →
      (¬ p.val < s.nextHandle.toNat →
        exec (.bind a) s = .next (afterSubmit s p cw [] ((s.port p).doneWith ⟨0x00000012#32, none⟩))) ∧
      (p.val < s.nextHandle.toNat → (s.port p).bound = true →
        exec (.bind a) s = .next (afterSubmit s p cw [] ((s.port p).doneWith ⟨0x00000018#32, none⟩))))

/-- R151: BIND on an acquired, unbound port binds it to the address its operand selects. It needs no bus and no phase. -/
def Obligations.BindBindsTheSubmittingPort : Prop :=
  ∀ (s : State) (p : PortId) (cw : Word) (a : BitVec 1), s.due = .accept (.handle p) ⟨cw, []⟩ →
    p.val < s.nextHandle.toNat → (s.port p).bound = false →
    exec (.bind a) s = .next (afterSubmit s p cw []
      { (s.port p).doneWith ⟨0x00000000#32, none⟩ with bound := true, asel := a })

/-! ## Acceptance of the bus commands -/

/-- R100, R101: a bus command that passes its checks is accepted: its word and whole lane are latched, STEP is 0, the read buffer
is empty, and the port is in WAIT; nothing else changes. -/
def Obligations.BusCommandWaitsForTheLock : Prop :=
  ∀ (s : State) (p : PortId) (i : Instr) (cw : Word) (ws : List Byte), i.isBus = true →
    s.due = .accept (.handle p) ⟨cw, ws⟩ → i.legal s.cfg ws = true → p.val < s.nextHandle.toNat → s.busOwned = true →
    (i.isDriver = true → (s.port p).bound = true) →
    exec i s = .next (afterSubmit s p cw ws { s.port p with step := 0, rbuf := [], pst := .wait })

/-- R204: the errors a legal bus command meets at acceptance on a handle port: not acquired, then (a driver command) not
bound, then the bus not owned. -/
def Obligations.BusCommandFailsFast : Prop :=
  ∀ (s : State) (p : PortId) (i : Instr) (cw : Word) (ws : List Byte), i.isBus = true →
    s.due = .accept (.handle p) ⟨cw, ws⟩ → i.legal s.cfg ws = true →
    (¬ p.val < s.nextHandle.toNat →
      exec i s = .next (afterSubmit s p cw ws ((s.port p).doneWith ⟨0x00000012#32, none⟩))) ∧
    (p.val < s.nextHandle.toNat → i.isDriver = true → (s.port p).bound = false →
      exec i s = .next (afterSubmit s p cw ws ((s.port p).doneWith ⟨0x00000017#32, none⟩))) ∧
    (p.val < s.nextHandle.toNat → (i.isDriver = true → (s.port p).bound = true) → s.busOwned = false →
      exec i s = .next (afterSubmit s p cw ws ((s.port p).doneWith ⟨0x00000016#32, none⟩)))

/-! ## Grant -/

/-- R102: with the lock free, the arbiter may grant any waiting port: it gets the lock and the bus. That arbLast is written under
this policy too is the model's inference (log entry 5): R111 gives the memory to round-robin alone. The turn that names the
port is the model's form of an open choice (log entry 21). -/
def Obligations.AnyWaitingPortMayBeGranted : Prop :=
  ∀ (s : State) (p : PortId) (ts : List Turn), s.cfg.arb = .anyWaiting → s.turns = .arbiter p :: ts → s.lock = none →
    p.val < s.cfg.h → (s.port p).pst = .wait →
    step s = .next
      { s with
        turns := ts, lock := some p, arbLast := p,
        ports := s.ports.set p.val { s.port p with pst := .bus } }

/-- R102: while the lock is held, or while no port waits, no port is granted, whatever the policy; the arbiter's turn is used up
(log entry 2). -/
def Obligations.NoGrantWithoutAFreeLockAndAWaiter : Prop :=
  ∀ (s : State) (c : PortId) (ts : List Turn), s.turns = .arbiter c :: ts →
    (s.lock ≠ none ∨ ∀ p : PortId, p.val < s.cfg.h → (s.port p).pst ≠ .wait) → step s = .next { s with turns := ts }

/-- R111: the reference policy grants the first waiting port in the order last+1, last+2, … (mod H). -/
def Obligations.RoundRobinGrantsTheFirstWaiter : Prop :=
  ∀ (s : State) (c p : PortId) (ts : List Turn), s.cfg.wf → s.cfg.arb = .roundRobin → s.arbLast.val < s.cfg.h →
    s.turns = .arbiter c :: ts → s.lock = none → p.val < s.cfg.h → (s.port p).pst = .wait →
    (∀ q : PortId, q.val < s.cfg.h → (s.port q).pst = .wait → roundRobinDistance s p ≤ roundRobinDistance s q) →
    step s = .next
      { s with
        turns := ts, lock := some p, arbLast := p,
        ports := s.ports.set p.val { s.port p with pst := .bus } }

/-- R111: under round-robin a waiting port is at most H - 1 grants away, each grant to another port brings it nearer, and no
other turn but a reset takes it further away. -/
def Obligations.RoundRobinWaitIsBounded : Prop :=
  ∀ (s : State) (p : PortId), s.cfg.wf → s.cfg.arb = .roundRobin → s.arbLast.val < s.cfg.h → p.val < s.cfg.h →
    (s.port p).pst = .wait →
    roundRobinDistance s p ≤ s.cfg.h - 1 ∧
    (∀ c ts, s.turns = .arbiter c :: ts → s.lock = none → ∃ (g : PortId) (t : State), step s = .next t ∧
      t.lock = some g ∧ (g = p ∨ roundRobinDistance t p < roundRobinDistance s p)) ∧
    (∀ t, step s = .next t → ((∀ c ts, s.turns ≠ .arbiter c :: ts) ∨ s.lock ≠ none) → (∀ ts, s.turns ≠ .reset :: ts) →
      roundRobinDistance t p = roundRobinDistance s p)

/-! ## Perform -/

/-- R106, R109, R115: TRANSACT performs the one transaction of its operands and its latched write data, and RDATA is what the
channel read. -/
def Obligations.TransactReturnsTheBytesRead : Prop :=
  ∀ (s : State) (p : PortId) (a : Addr7) (n m : Byte) (ws rs : List Byte), s.due = .perform p (.ok rs) →
    (s.port p).wd = some ws → (s.port p).step = 0 → (s.port p).rbuf = [] → rs.length = m.toNat →
    exec (.transact a n m) s = .next (afterTransaction s p ⟨a, ws, m.toNat⟩ (.ok rs)
      { (s.port p).doneWith ⟨0x00000000#32, some (.rdata rs)⟩ with step := 1, rbuf := rs })

/-- R130: READ_REG writes the offset and reads one byte in one transaction; BYTE is that byte. -/
def Obligations.ReadRegReturnsTheByteRead : Prop :=
  ∀ (s : State) (p : PortId) (a : Addr7) (r b : Byte), s.due = .perform p (.ok [b]) →
    (s.port p).step = 0 → (s.port p).rbuf = [] →
    exec (.readReg a r) s = .next (afterTransaction s p ⟨a, [r], 1⟩ (.ok [b])
      { (s.port p).doneWith ⟨b.setWidth 32 <<< 16, none⟩ with step := 1, rbuf := [b] })

/-- R131: WRITE_REG writes the offset and the value, offset first, in one transaction that reads nothing. -/
def Obligations.WriteRegWritesOffsetThenValue : Prop :=
  ∀ (s : State) (p : PortId) (a : Addr7) (r v : Byte), s.due = .perform p (.ok []) →
    (s.port p).step = 0 → (s.port p).rbuf = [] →
    exec (.writeReg a r v) s = .next (afterTransaction s p ⟨a, [r, v], 0⟩ (.ok [])
      { (s.port p).doneWith ⟨0x00000000#32, none⟩ with step := 1, rbuf := [] })

/-- R152, R153, R157: READ_ID reads REG_ID of the bound address, and any byte is an OK result. -/
def Obligations.ReadIdReturnsTheByteRead : Prop :=
  ∀ (s : State) (p : PortId) (b : Byte), s.due = .perform p (.ok [b]) → (s.port p).step = 0 → (s.port p).rbuf = [] →
    exec .readId s = .next (afterTransaction s p
      ⟨if (s.port p).asel = 0#1 then s.cfg.devAddr0 else s.cfg.devAddr1, [s.cfg.regId], 1⟩ (.ok [b])
      { (s.port p).doneWith ⟨b.setWidth 32 <<< 16, none⟩ with step := 1, rbuf := [b] })

/-- R152, R154: READ_RANGE reads REG_CFG of the bound address and reports the setting of the byte and its full scale. -/
def Obligations.ReadRangeReportsTheSetting : Prop :=
  ∀ (s : State) (p : PortId) (b : Byte), s.cfg.wf → s.due = .perform p (.ok [b]) →
    (s.port p).step = 0 → (s.port p).rbuf = [] →
    ∃ e ∈ settings, decodeRange s.cfg b = e.1 ∧
      exec .readRange s = .next (afterTransaction s p
        ⟨if (s.port p).asel = 0#1 then s.cfg.devAddr0 else s.cfg.devAddr1, [s.cfg.regCfg], 1⟩ (.ok [b])
        { (s.port p).doneWith ⟨e.2.1, some (.fs e.2.2.1)⟩ with step := 1, rbuf := [b] })

/-- R104, R155: each of READ_SAMPLE's first six transactions reads one sample byte, in the order X, Y, Z and low before high,
and then the port waits for the lock again. -/
def Obligations.ReadSampleReadsSixSampleBytes : Prop :=
  ∀ (s : State) (p : PortId) (b off : Byte), s.due = .perform p (.ok [b]) →
    [s.cfg.x.lo, s.cfg.x.hi, s.cfg.y.lo, s.cfg.y.hi, s.cfg.z.lo, s.cfg.z.hi][(s.port p).step.toNat]? = some off →
    exec .readSample s = .next (afterTransaction s p
      ⟨if (s.port p).asel = 0#1 then s.cfg.devAddr0 else s.cfg.devAddr1, [off], 1⟩ (.ok [b])
      { s.port p with pst := .wait, step := (s.port p).step + 1, rbuf := (s.port p).rbuf ++ [b] })

/-- R133, R155, R156, R185: READ_SAMPLE's seventh transaction reads REG_CFG afresh; the six bytes make the three raw values,
low byte first, and each is scaled with the setting just read. -/
def Obligations.ReadSampleScalesWithTheFreshRange : Prop :=
  ∀ (s : State) (p : PortId) (xl xh yl yh zl zh b : Byte), s.cfg.wf → s.due = .perform p (.ok [b]) →
    (s.port p).step = 6 → (s.port p).rbuf = [xl, xh, yl, yh, zl, zh] →
    ∃ e ∈ settings, decodeRange s.cfg b = e.1 ∧
      exec .readSample s = .next (afterTransaction s p
        ⟨if (s.port p).asel = 0#1 then s.cfg.devAddr0 else s.cfg.devAddr1, [s.cfg.regCfg], 1⟩ (.ok [b])
        { (s.port p).doneWith ⟨e.2.1, some (.sample (xh ++ xl) (yh ++ yl) (zh ++ zl)
            (scale (xh ++ xl).toInt e.2.2.2) (scale (yh ++ yl).toInt e.2.2.2) (scale (zh ++ zl).toInt e.2.2.2)
            e.2.2.1)⟩ with
          step := 7, rbuf := [xl, xh, yl, yh, zl, zh, b] })

/-- R104: after a transaction that returned Ok, STEP advances by one and the bytes join RBUF; with transactions left the port
waits again, else the command completes with the result of all the bytes read. -/
def Obligations.OkTransactionAdvancesThePlan : Prop :=
  ∀ (s : State) (p : PortId) (i : Instr) (xs : List Xfer) (x : Xfer) (rs : List Byte), i.isBus = true →
    s.due = .perform p (.ok rs) → planOf s.cfg (s.port p) i = some xs → (s.port p).step.toNat < 7 →
    xs[(s.port p).step.toNat]? = some x → rs.length = x.m →
    ((s.port p).step.toNat + 1 < xs.length →
      exec i s = .next (afterTransaction s p x (.ok rs)
        { s.port p with rbuf := (s.port p).rbuf ++ rs, step := (s.port p).step + 1, pst := .wait })) ∧
    (∀ r, (s.port p).step.toNat + 1 = xs.length → resultOf s.cfg ((s.port p).rbuf ++ rs) i = some r →
      exec i s = .next (afterTransaction s p x (.ok rs)
        { (s.port p).doneWith (response r.status 0 r) with
          rbuf := (s.port p).rbuf ++ rs, step := (s.port p).step + 1 }))

/-- R105: a transaction that fails completes the command at once with the status of its phase and the failing step; the
remaining transactions are not issued, and STEP and RBUF keep their values. -/
def Obligations.FailedTransactionEndsTheCommand : Prop :=
  ∀ (s : State) (p : PortId) (i : Instr) (xs : List Xfer) (x : Xfer), i.isBus = true →
    planOf s.cfg (s.port p) i = some xs → xs[(s.port p).step.toNat]? = some x →
    (s.due = .perform p (.err .write) → x.ws ≠ [] →
      exec i s = .next (afterTransaction s p x (.err .write)
        ((s.port p).doneWith ⟨0x00000001#32 ||| (s.port p).step.setWidth 32 <<< 8, none⟩))) ∧
    (s.due = .perform p (.err .read) → x.m ≠ 0 →
      exec i s = .next (afterTransaction s p x (.err .read)
        ((s.port p).doneWith ⟨0x00000002#32 ||| (s.port p).step.setWidth 32 <<< 8, none⟩)))

/-- R241, R104, in a bounded form: with the lock free and the arbiter open, a waiting port that is granted again and again, each
of its transactions answered Ok with as many bytes as it asks for, is DONE after two turns for each transaction left,
with the result of all the bytes read. The premise on the turns is the fairness and the answering channel R241 names. -/
def Obligations.ServedCommandCompletes : Prop :=
  ∀ (s : State) (p : PortId) (i : Instr) (xs : List Xfer) (answers : List (List Byte)) (rest : List Turn), Inv s →
    s.cfg.arb = .anyWaiting → s.lock = none → (s.port p).pst = .wait → Latched s p i xs →
    answers.map List.length = (xs.drop (s.port p).step.toNat).map Xfer.m →
    s.turns = serveTurns p answers ++ rest →
    ∃ t r, Host.Core.run core (2 * answers.length) s = .next t ∧ t.turns = rest ∧ t.lock = none ∧
      (t.port p).pst = .done ∧ (t.port p).rbuf = (s.port p).rbuf ++ answers.flatten ∧
      resultOf s.cfg (t.port p).rbuf i = some r ∧ (t.port p).rsp = some (response r.status 0 r)

/-! ## Take and reset -/

/-- R108, R206: the requester of a DONE port receives its response, once, and the port is IDLE; on any other port the take
step is not enabled and only the turn passes (log entry 2). That CMD, WD, RSP and MRSP then hold no value is the model's
inference from R27, R30 and R31 (log entry 11), which R108 does not say. -/
def Obligations.TakeDeliversTheResponseOnce : Prop :=
  ∀ (s : State) (ts : List Turn),
    (∀ r, s.turns = .take .m :: ts → s.mst = .done → s.mrsp = some r →
      step s = .next
        { s with turns := ts, mst := .idle, mrsp := none, delivered := s.delivered ++ [(PortRef.m, r)] }) ∧
    (∀ p r, s.turns = .take (.handle p) :: ts → p.val < s.cfg.h → (s.port p).pst = .done → (s.port p).rsp = some r →
      step s = .next
        { s with
          turns := ts, delivered := s.delivered ++ [(PortRef.handle p, r)],
          ports := s.ports.set p.val { s.port p with pst := .idle, cmd := none, wd := none, rsp := none } }) ∧
    (s.turns = .take .m :: ts → s.mst = .idle → step s = .next { s with turns := ts }) ∧
    (∀ p, s.turns = .take (.handle p) :: ts → (s.port p).pst ≠ .done → step s = .next { s with turns := ts })

/-- R38, R230: the reset values of the block's fields, under every configuration. (The values of arbLast, the observation
records and the pending inputs are the model's: log entries 5 and 8.) -/
def Obligations.ResetValuesAreTheSpecs : Prop :=
  ∀ c : Config,
    (State.resetWith c).phase = .setup ∧ (State.resetWith c).busOwned = false ∧ (State.resetWith c).nextHandle = 0#5 ∧
    (State.resetWith c).lock = none ∧ (State.resetWith c).mst = .idle ∧ (State.resetWith c).mrsp = none ∧
    (∀ p, (State.resetWith c).port p =
      { bound := false, asel := 0#1, pst := .idle, cmd := none, wd := none, step := 0#3, rbuf := [], rsp := none })

/-- R230, R231: a reset puts every field of the block in its reset value, whatever is outstanding: it issues no transaction and
delivers no response. (That the records and the offers outlive it, and what becomes of arbLast, is the model's choice: log
entries 7 and 5.) -/
def Obligations.ResetDropsWhatIsOutstanding : Prop :=
  ∀ (s : State) (ts : List Turn), s.turns = .reset :: ts →
    step s = .next
      { State.resetWith s.cfg with
        turns := ts, history := s.history, delivered := s.delivered, offers := s.offers, mOffers := s.mOffers }

/-! ## What every step keeps -/

/-- R38, R40: the state after reset satisfies the invariant, under every legal configuration. -/
def Obligations.ResetMeetsTheInvariant : Prop := ∀ c : Config, c.wf → Inv (State.resetWith c)

/-- R40, R27, R29 to R31: every step keeps the invariant: one port at most on the bus and it holds the lock, outstanding commands
only on acquired ports of an owned bus, within their plans, every field holds a value exactly when the spec says so, and WD and
RBUF stay within their lengths. -/
def Obligations.EveryStepKeepsTheInvariant : Prop :=
  ∀ s t : State, Inv s → step s = .next t → Inv t

/-- R39: no rule reads a field that holds no value. From a state that meets the invariant no step faults or refuses. -/
def Obligations.NoStepStops : Prop := ∀ s : State, Inv s → ∃ t, step s = .next t

/-- R26: the moves of PST, and what causes each. No other move exists; a reset leaves IDLE. -/
def Obligations.PortsMoveAsSpecified : Prop :=
  ∀ (s t : State) (p : PortId), step s = .next t →
    ((∃ ts, s.turns = .reset :: ts) ∧ (t.port p).pst = .idle) ∨
    (t.port p).pst = (s.port p).pst ∨
    ((s.port p).pst = .idle ∧ ((t.port p).pst = .done ∨ (t.port p).pst = .wait) ∧
      ∃ sub, s.due = .accept (.handle p) sub) ∨
    ((s.port p).pst = .wait ∧ (t.port p).pst = .bus ∧ ∃ c ts, s.turns = .arbiter c :: ts) ∨
    ((s.port p).pst = .bus ∧ ((t.port p).pst = .wait ∨ (t.port p).pst = .done) ∧ ∃ o, s.due = .perform p o) ∨
    ((s.port p).pst = .done ∧ (t.port p).pst = .idle ∧ ∃ ts, s.turns = .take (.handle p) :: ts)

/-- R40 item 3: but for a reset, BUS_OWNED, PHASE, NEXT_HANDLE and BOUND never decrease. -/
def Obligations.GlobalFieldsNeverDecrease : Prop :=
  ∀ s t : State, Inv s → step s = .next t → (∀ ts, s.turns ≠ .reset :: ts) →
    (s.busOwned = true → t.busOwned = true) ∧ (s.phase = .run → t.phase = .run) ∧
    s.nextHandle.toNat ≤ t.nextHandle.toNat ∧ ∀ p, (s.port p).bound = true → (t.port p).bound = true

/-- R21, R22, R23: but for a reset, PHASE is written only by RUN, from SETUP to RUN; BUS_OWNED only by TAKE_BUS, from 0 to 1;
NEXT_HANDLE only by ACQUIRE, which adds 1. -/
def Obligations.GlobalFieldsHaveOneWriter : Prop :=
  ∀ s t : State, step s = .next t → (∀ ts, s.turns ≠ .reset :: ts) →
    (t.phase ≠ s.phase → s.phase = .setup ∧ t.phase = .run ∧
      ∃ sub, s.due = .accept .m sub ∧ decode s.cfg sub.cw sub.ws = .ok .run) ∧
    (t.busOwned ≠ s.busOwned → s.busOwned = false ∧ t.busOwned = true ∧
      ∃ sub, s.due = .accept .m sub ∧ decode s.cfg sub.cw sub.ws = .ok .takeBus) ∧
    (t.nextHandle ≠ s.nextHandle → t.nextHandle = s.nextHandle + 1 ∧
      ∃ sub, s.due = .accept .m sub ∧ decode s.cfg sub.cw sub.ws = .ok .acquire)

/-- R25: but for a reset, BOUND and ASEL of a port are written only by BIND on that port while it is unbound, and are immutable
afterwards. -/
def Obligations.BindingIsImmutable : Prop :=
  ∀ (s t : State) (p : PortId), step s = .next t → (∀ ts, s.turns ≠ .reset :: ts) →
    ((s.port p).bound = true → (t.port p).bound = true ∧ (t.port p).asel = (s.port p).asel) ∧
    (((t.port p).bound ≠ (s.port p).bound ∨ (t.port p).asel ≠ (s.port p).asel) →
      ∃ sub a, s.due = .accept (.handle p) sub ∧ decode s.cfg sub.cw sub.ws = .ok (.bind a) ∧
        (t.port p).bound = true ∧ (t.port p).asel = a)

/-- R28, R29: but for a reset, STEP and RBUF of a port are written only when a bus command is accepted on it (0 and the empty
list) and when one of its transactions returns Ok (one more, and the bytes read appended). -/
def Obligations.StepAndReadBufferMoveAsSpecified : Prop :=
  ∀ (s t : State) (p : PortId), step s = .next t → (∀ ts, s.turns ≠ .reset :: ts) →
    ((t.port p).step = (s.port p).step ∧ (t.port p).rbuf = (s.port p).rbuf) ∨
    ((t.port p).step = 0 ∧ (t.port p).rbuf = [] ∧ (t.port p).pst = .wait ∧
      ∃ sub i, s.due = .accept (.handle p) sub ∧ decode s.cfg sub.cw sub.ws = .ok i ∧ i.isBus = true) ∨
    (∃ rs, s.due = .perform p (.ok rs) ∧ (t.port p).step = (s.port p).step + 1 ∧
      (t.port p).rbuf = (s.port p).rbuf ++ rs)

/-- R35: no step changes the configuration record. -/
def Obligations.ConfigurationIsFixed : Prop := ∀ s t : State, step s = .next t → t.cfg = s.cfg

/-- R24, R117: but for a reset, the lock goes from free to held by a waiting port at a grant, and is free after every
transaction, whatever its outcome; no other step writes it. -/
def Obligations.LockIsHeldForOneTransaction : Prop :=
  ∀ s t : State, step s = .next t → (∀ ts, s.turns ≠ .reset :: ts) →
    (t.lock = s.lock ∧ t.history = s.history) ∨
    (s.lock = none ∧ t.history = s.history ∧
      ∃ p c ts, s.turns = .arbiter c :: ts ∧ (s.port p).pst = .wait ∧ t.lock = some p ∧ (t.port p).pst = .bus) ∨
    (t.lock = none ∧ ∃ p o e, s.due = .perform p o ∧ t.history = s.history ++ [e] ∧ e.port = p ∧ (t.port p).pst ≠ .bus)

/-- R55, R61, R103, R110: the event history only grows, by one whole transaction at a perform step: the transaction of the
latched command's plan at STEP, with the outcome the channel gave. -/
def Obligations.HistoryRecordsPlannedTransactions : Prop :=
  ∀ s t : State, Inv s → step s = .next t →
    t.history = s.history ∨
    ∃ p o i xs x, s.due = .perform p o ∧ Latched s p i xs ∧ xs[(s.port p).step.toNat]? = some x ∧
      t.history = s.history ++ [⟨p, x, o⟩]

/-- R29, R61, R64 item 2: every step keeps this: the last events of a port with an outstanding command are its plan's
transactions up to STEP, each once and in order, and RBUF is the bytes they read. -/
def Obligations.EveryStepKeepsPlanOrder : Prop :=
  ∀ s t : State, Inv s → EventsFollowPlans s → step s = .next t → EventsFollowPlans t

/-- R81, R109 items 1 and 2: every step keeps every recorded outcome within the channel contract, and every recorded transaction
non-empty. -/
def Obligations.EveryStepKeepsTheChannelContract : Prop :=
  ∀ s t : State, Inv s → LawfulHistory s → step s = .next t → LawfulHistory t

/-- R86 to R89, R188: every step keeps every response canonical: the zero bits 0, a produced status code, a step only on a
transport error, no byte, range or payload on an error, and no UNRECOGNIZED range. -/
def Obligations.EveryStepKeepsResponsesCanonical : Prop :=
  ∀ s t : State, Inv s → CanonicalResponses s → step s = .next t → CanonicalResponses t

/-- R205, R207: a turn of one port's requester, or an answer of the channel to one port, leaves every other port, what their
requesters hold and the management port alone; a turn of M's requester leaves every handle port and the lock alone. -/
def Obligations.OtherPortsAreUndisturbed : Prop :=
  ∀ (s t : State) (u : Turn) (ts : List Turn), step s = .next t → s.turns = u :: ts →
    (∀ p, (u = .submit (.handle p) ∨ u = .take (.handle p) ∨ ∃ o, u = .channel p o) →
      (∀ q : PortId, q ≠ p → t.port q = s.port q ∧ t.offers[q.val] = s.offers[q.val]) ∧
      t.mst = s.mst ∧ t.mrsp = s.mrsp ∧ t.mOffers = s.mOffers) ∧
    ((u = .submit .m ∨ u = .take .m) → t.ports = s.ports ∧ t.offers = s.offers ∧ t.lock = s.lock ∧ t.history = s.history)

/-! ## Range Decoder and Range-Scale Multiplier -/

/-- R133: the signed value of an assembled sample, and the inverse of assembly. -/
def Obligations.SampleAssemblyIsLittleEndian : Prop :=
  ∀ lo hi : Byte,
    (assemble16 lo hi).toInt = (hi ++ lo).toInt ∧
    (assemble16 lo hi).extractLsb' 0 8 = lo ∧ (assemble16 lo hi).extractLsb' 8 8 = hi ∧
    (hi.toNat < 0x80 → (assemble16 lo hi).toInt = hi.toNat * 256 + lo.toNat) ∧
    (0x80 ≤ hi.toNat → (assemble16 lo hi).toInt = hi.toNat * 256 + lo.toNat - 65536)

/-- R181, R188: the decoder reads the table at the two bits at RANGE_LSB and at no other bit, gives one of the four settings, never
UNRECOGNIZED, and gives each of them on exactly 64 of the 256 bytes. Under the reference profile it is the table of R181. -/
def Obligations.RangeDecoderIsTotalAndEven : Prop :=
  [0x00#8, 0x20#8, 0x40#8, 0x60#8].map (decodeRange Config.reference) = [.fs16, .fs8, .fs4, .fs2] ∧
  [0x00#8, 0x20#8, 0x40#8, 0x60#8].map (fun b => rsetCode (decodeRange Config.reference b)) = [3#3, 2#3, 1#3, 0#3] ∧
  [0x00#8, 0x20#8, 0x40#8, 0x60#8].map (fun b => fullScale (decodeRange Config.reference b)) =
    [some 16, some 8, some 4, some 2] ∧
  ∀ c : Config, c.wf →
    (∀ b : Byte, c.rangeTable[b.toNat / 2 ^ c.rangeLsb % 4]? = some (decodeRange c b)) ∧
    (∀ b : Byte, decodeRange c b ≠ .unrecognized) ∧
    (∀ rs : RangeSetting, rs ≠ .unrecognized →
      ((List.range 256).filter fun n => decide (decodeRange c (BitVec.ofNat 8 n) = rs)).length = 64)

/-- R184, R183, R186: the scaled value is +0.0 for raw 0 and a normal number otherwise, and no finite binary32 value is nearer to the exact
quotient raw * F / 32767; on a tie its last fraction bit is 0. (Distances are multiplied by 32767 * 2^149, which makes them
whole numbers.) -/
def Obligations.ScaleRoundsToNearestEven : Prop :=
  ∀ (raw : Int) (f : Nat), -32768 ≤ raw → raw ≤ 32767 → f ∈ [2, 4, 8, 16] →
    FiniteWord (scale raw f) ∧ (raw = 0 → scale raw f = 0x00000000#32) ∧
    (raw ≠ 0 → (scale raw f).extractLsb' 23 8 ≠ 0#8) ∧
    ∀ w : Word, FiniteWord w →
      (valueUnits (scale raw f) * 32767 - raw * f * 2 ^ 149).natAbs ≤ (valueUnits w * 32767 - raw * f * 2 ^ 149).natAbs ∧
      ((valueUnits (scale raw f) * 32767 - raw * f * 2 ^ 149).natAbs = (valueUnits w * 32767 - raw * f * 2 ^ 149).natAbs →
        valueUnits w ≠ valueUnits (scale raw f) → (scale raw f).extractLsb' 0 1 = 0#1)

/-- R186 items 1 to 6: zero, the exact ends, odd symmetry, the one input whose magnitude exceeds the full scale, monotony and the
bounds of every nonzero result. -/
def Obligations.ScaleHasTheListedProperties : Prop :=
  ∀ f ∈ [2, 4, 8, 16],
    scale 0 f = 0x00000000#32 ∧
    scale 32767 f = fullScaleWord f ∧ scale (-32767) f = fullScaleWord f ||| 0x80000000#32 ∧
    scale (-32768) f = (fullScaleWord f ||| 0x80000000#32) + 0x00000100#32 ∧
    (∀ raw : Int, -32767 ≤ raw → raw ≤ 32767 → magnitudeUnits (scale raw f) ≤ magnitudeUnits (fullScaleWord f)) ∧
    magnitudeUnits (fullScaleWord f) < magnitudeUnits (scale (-32768) f) ∧
    (∀ raw : Int, -32767 ≤ raw → raw ≤ 32767 → raw ≠ 0 → scale (-raw) f = scale raw f ^^^ 0x80000000#32) ∧
    (∀ raw raw' : Int, -32768 ≤ raw → raw ≤ raw' → raw' ≤ 32767 → valueUnits (scale raw f) ≤ valueUnits (scale raw' f)) ∧
    (∀ raw : Int, -32768 ≤ raw → raw ≤ 32767 → raw ≠ 0 →
      magnitudeUnits 0x38800100#32 ≤ magnitudeUnits (scale raw f) ∧
      magnitudeUnits (scale raw f) ≤ magnitudeUnits 0x41800100#32)

/-- R187: the scaling of one nonzero raw value by the four ranges differs only in the exponent field, by one per doubling, so
multiplying by the full scale after rounding the quotient raw/32767 gives the same bits. -/
def Obligations.FullScaleOnlyMovesTheExponent : Prop :=
  ∀ raw : Int, -32768 ≤ raw → raw ≤ 32767 → raw ≠ 0 →
    scale raw 2 = rne32 raw maxRaw + 0x00800000#32 ∧ scale raw 4 = rne32 raw maxRaw + 0x01000000#32 ∧
    scale raw 8 = rne32 raw maxRaw + 0x01800000#32 ∧ scale raw 16 = rne32 raw maxRaw + 0x02000000#32

/-- R182, R89, R90: the RSET codes and the binary32 patterns of the four full scales; UNRECOGNIZED has no full scale. -/
def Obligations.FullScalesAreEncodedAsListed : Prop :=
  (∀ e ∈ settings, fullScale e.1 = some e.2.2.2 ∧ fullScaleWord e.2.2.2 = e.2.2.1 ∧
    (rsetCode e.1).setWidth 32 <<< 24 = e.2.1) ∧
  fullScale .unrecognized = none ∧ rsetCode .unrecognized = 7#3
end

