-- ==== Sys2Proof/Laws/Operands.lean ====
section
/-! SUPPORT. What the operand functions compute: the range field, sample assembly, the rounding of a quotient, and the byte order
of a serialised word. -/

namespace Sys2Proof.Machine

/-- The range field is the two bits at RANGE_LSB (R181). -/
theorem rangeField_toNat (c : Config) (b : Byte) : (rangeField c b).toNat = b.toNat / 2 ^ c.rangeLsb % 4 := by
  simp [rangeField, Nat.shiftRight_eq_div_pow]

theorem assemble16_toNat (lo hi : Byte) : (assemble16 lo hi).toNat = hi.toNat * 256 + lo.toNat := by
  have := lo.isLt
  rw [assemble16, BitVec.toNat_append, ← Nat.shiftLeft_add_eq_or_of_lt (by omega), Nat.shiftLeft_eq]

/-- The rounded quotient is within half a unit of the exact one: twice their distance, times d, is at most d. -/
theorem divNearestEven_close {n d : Nat} (hd : 0 < d) :
    2 * n ≤ 2 * (d * divNearestEven n d) + d ∧ 2 * (d * divNearestEven n d) ≤ 2 * n + d := by
  have h := Nat.div_add_mod n d
  have hm := Nat.mod_lt n hd
  unfold divNearestEven
  split
  · constructor <;> omega
  · split
    · rw [Nat.mul_add]; constructor <;> omega
    · rcases Nat.mod_two_eq_zero_or_one (n / d) with e | e <;> rw [e, Nat.mul_add] <;> constructor <;> omega

/-- On a tie the rounded quotient is even. -/
theorem divNearestEven_tie {n d : Nat} (h : 2 * (n % d) = d) : divNearestEven n d % 2 = 0 := by
  unfold divNearestEven
  rw [if_neg (by omega), if_neg (by omega)]
  omega

/-- An exact quotient is not rounded. -/
theorem divNearestEven_exact {n d : Nat} (hd : 0 < d) : divNearestEven (n * d) d = n := by
  simp [divNearestEven, Nat.mul_div_cancel _ hd, hd]

/-- R57: the bytes of a serialised word, least-significant first, give the word back. -/
theorem wordBytes_word (w : Word) :
    (wordBytes w).map BitVec.toNat =
      [w.toNat % 256, w.toNat / 256 % 256, w.toNat / 65536 % 256, w.toNat / 16777216 % 256] := by
  simp [wordBytes, Nat.shiftRight_eq_div_pow]

theorem halfBytes_half (h : Half) : (halfBytes h).map BitVec.toNat = [h.toNat % 256, h.toNat / 256 % 256] := by
  simp [halfBytes, Nat.shiftRight_eq_div_pow]

/-- R57 and R133: a serialised sample is assembled back. -/
theorem assemble16_halfBytes (h : Half) : assemble16 (h.extractLsb' 0 8) (h.extractLsb' 8 8) = h := by
  apply BitVec.eq_of_toNat_eq
  rw [assemble16_toNat]
  have := h.isLt
  simp [Nat.shiftRight_eq_div_pow]
  omega

end Sys2Proof.Machine
end

