-- ==== Sys2Proof/Laws/State.lean ====
section
/-! SUPPORT. The field lemmas of the state updates: what each named update leaves in each field. -/

namespace Sys2Proof.Machine

/-! ## passTurn -/

@[simp] theorem State.passTurn_cfg (s : State) : s.passTurn.cfg = s.cfg := rfl
@[simp] theorem State.passTurn_phase (s : State) : s.passTurn.phase = s.phase := rfl
@[simp] theorem State.passTurn_busOwned (s : State) : s.passTurn.busOwned = s.busOwned := rfl
@[simp] theorem State.passTurn_nextHandle (s : State) : s.passTurn.nextHandle = s.nextHandle := rfl
@[simp] theorem State.passTurn_lock (s : State) : s.passTurn.lock = s.lock := rfl
@[simp] theorem State.passTurn_ports (s : State) : s.passTurn.ports = s.ports := rfl
@[simp] theorem State.passTurn_mst (s : State) : s.passTurn.mst = s.mst := rfl
@[simp] theorem State.passTurn_mrsp (s : State) : s.passTurn.mrsp = s.mrsp := rfl
@[simp] theorem State.passTurn_arbLast (s : State) : s.passTurn.arbLast = s.arbLast := rfl
@[simp] theorem State.passTurn_history (s : State) : s.passTurn.history = s.history := rfl
@[simp] theorem State.passTurn_delivered (s : State) : s.passTurn.delivered = s.delivered := rfl
@[simp] theorem State.passTurn_offers (s : State) : s.passTurn.offers = s.offers := rfl
@[simp] theorem State.passTurn_mOffers (s : State) : s.passTurn.mOffers = s.mOffers := rfl
@[simp] theorem State.passTurn_turns (s : State) : s.passTurn.turns = s.turns.tail := rfl

@[simp] theorem State.passTurn_port (s : State) (p : PortId) : s.passTurn.port p = s.port p := rfl

/-! ## setPort -/

@[simp] theorem State.setPort_cfg (s : State) (p : PortId) (x : PortState) :
    (s.setPort p x).cfg = s.cfg := rfl
@[simp] theorem State.setPort_phase (s : State) (p : PortId) (x : PortState) :
    (s.setPort p x).phase = s.phase := rfl
@[simp] theorem State.setPort_busOwned (s : State) (p : PortId) (x : PortState) :
    (s.setPort p x).busOwned = s.busOwned := rfl
@[simp] theorem State.setPort_nextHandle (s : State) (p : PortId) (x : PortState) :
    (s.setPort p x).nextHandle = s.nextHandle := rfl
@[simp] theorem State.setPort_lock (s : State) (p : PortId) (x : PortState) :
    (s.setPort p x).lock = s.lock := rfl
@[simp] theorem State.setPort_ports (s : State) (p : PortId) (x : PortState) :
    (s.setPort p x).ports = s.ports.set p.val x := rfl
@[simp] theorem State.setPort_mst (s : State) (p : PortId) (x : PortState) :
    (s.setPort p x).mst = s.mst := rfl
@[simp] theorem State.setPort_mrsp (s : State) (p : PortId) (x : PortState) :
    (s.setPort p x).mrsp = s.mrsp := rfl
@[simp] theorem State.setPort_arbLast (s : State) (p : PortId) (x : PortState) :
    (s.setPort p x).arbLast = s.arbLast := rfl
@[simp] theorem State.setPort_history (s : State) (p : PortId) (x : PortState) :
    (s.setPort p x).history = s.history := rfl
@[simp] theorem State.setPort_delivered (s : State) (p : PortId) (x : PortState) :
    (s.setPort p x).delivered = s.delivered := rfl
@[simp] theorem State.setPort_offers (s : State) (p : PortId) (x : PortState) :
    (s.setPort p x).offers = s.offers := rfl
@[simp] theorem State.setPort_mOffers (s : State) (p : PortId) (x : PortState) :
    (s.setPort p x).mOffers = s.mOffers := rfl
@[simp] theorem State.setPort_turns (s : State) (p : PortId) (x : PortState) :
    (s.setPort p x).turns = s.turns := rfl

@[simp] theorem State.port_setPort_self (s : State) (p : PortId) (x : PortState) : (s.setPort p x).port p = x := by
  simp [State.port]

theorem State.port_setPort_of_ne (s : State) {p q : PortId} (x : PortState) (h : q ≠ p) :
    (s.setPort p x).port q = s.port q := by
  have : p.val ≠ q.val := fun e => h (Fin.ext e.symm)
  simp [State.port, Vector.getElem_set_ne _ _ this]

theorem State.port_setPort (s : State) (p q : PortId) (x : PortState) :
    (s.setPort p x).port q = if q = p then x else s.port q := by
  split
  · subst_vars; simp
  · exact s.port_setPort_of_ne x ‹_›

/-! ## consume -/

@[simp] theorem State.consume_cfg (s : State) (q : PortRef) : (s.consume q).cfg = s.cfg := by cases q <;> rfl
@[simp] theorem State.consume_phase (s : State) (q : PortRef) : (s.consume q).phase = s.phase := by cases q <;> rfl
@[simp] theorem State.consume_busOwned (s : State) (q : PortRef) : (s.consume q).busOwned = s.busOwned := by cases q <;> rfl
@[simp] theorem State.consume_nextHandle (s : State) (q : PortRef) : (s.consume q).nextHandle = s.nextHandle := by cases q <;> rfl
@[simp] theorem State.consume_lock (s : State) (q : PortRef) : (s.consume q).lock = s.lock := by cases q <;> rfl
@[simp] theorem State.consume_ports (s : State) (q : PortRef) : (s.consume q).ports = s.ports := by cases q <;> rfl
@[simp] theorem State.consume_mst (s : State) (q : PortRef) : (s.consume q).mst = s.mst := by cases q <;> rfl
@[simp] theorem State.consume_mrsp (s : State) (q : PortRef) : (s.consume q).mrsp = s.mrsp := by cases q <;> rfl
@[simp] theorem State.consume_arbLast (s : State) (q : PortRef) : (s.consume q).arbLast = s.arbLast := by cases q <;> rfl
@[simp] theorem State.consume_history (s : State) (q : PortRef) : (s.consume q).history = s.history := by cases q <;> rfl
@[simp] theorem State.consume_delivered (s : State) (q : PortRef) : (s.consume q).delivered = s.delivered := by cases q <;> rfl
@[simp] theorem State.consume_turns (s : State) (q : PortRef) : (s.consume q).turns = s.turns.tail := by cases q <;> rfl

@[simp] theorem State.consume_port (s : State) (q : PortRef) (p : PortId) : (s.consume q).port p = s.port p := by
  cases q <;> rfl

/-! ## performed -/

@[simp] theorem State.performed_cfg (s : State) (p : PortId) (x : Xfer) (o : ChanOutcome) :
    (s.performed p x o).cfg = s.cfg := rfl
@[simp] theorem State.performed_phase (s : State) (p : PortId) (x : Xfer) (o : ChanOutcome) :
    (s.performed p x o).phase = s.phase := rfl
@[simp] theorem State.performed_busOwned (s : State) (p : PortId) (x : Xfer) (o : ChanOutcome) :
    (s.performed p x o).busOwned = s.busOwned := rfl
@[simp] theorem State.performed_nextHandle (s : State) (p : PortId) (x : Xfer) (o : ChanOutcome) :
    (s.performed p x o).nextHandle = s.nextHandle := rfl
@[simp] theorem State.performed_lock (s : State) (p : PortId) (x : Xfer) (o : ChanOutcome) :
    (s.performed p x o).lock = none := rfl
@[simp] theorem State.performed_ports (s : State) (p : PortId) (x : Xfer) (o : ChanOutcome) :
    (s.performed p x o).ports = s.ports := rfl
@[simp] theorem State.performed_mst (s : State) (p : PortId) (x : Xfer) (o : ChanOutcome) :
    (s.performed p x o).mst = s.mst := rfl
@[simp] theorem State.performed_mrsp (s : State) (p : PortId) (x : Xfer) (o : ChanOutcome) :
    (s.performed p x o).mrsp = s.mrsp := rfl
@[simp] theorem State.performed_arbLast (s : State) (p : PortId) (x : Xfer) (o : ChanOutcome) :
    (s.performed p x o).arbLast = s.arbLast := rfl
@[simp] theorem State.performed_history (s : State) (p : PortId) (x : Xfer) (o : ChanOutcome) :
    (s.performed p x o).history = s.history ++ [⟨p, x, o⟩] := rfl
@[simp] theorem State.performed_delivered (s : State) (p : PortId) (x : Xfer) (o : ChanOutcome) :
    (s.performed p x o).delivered = s.delivered := rfl
@[simp] theorem State.performed_offers (s : State) (p : PortId) (x : Xfer) (o : ChanOutcome) :
    (s.performed p x o).offers = s.offers := rfl
@[simp] theorem State.performed_mOffers (s : State) (p : PortId) (x : Xfer) (o : ChanOutcome) :
    (s.performed p x o).mOffers = s.mOffers := rfl
@[simp] theorem State.performed_turns (s : State) (p : PortId) (x : Xfer) (o : ChanOutcome) :
    (s.performed p x o).turns = s.turns.tail := rfl

@[simp] theorem State.performed_port (s : State) (p : PortId) (x : Xfer) (o : ChanOutcome) (r : PortId) :
    (s.performed p x o).port r = s.port r := rfl

/-! ## complete, raise, latch -/

@[simp] theorem complete_cfg (q : PortRef) (st : Status) (n : BitVec 3) (r : Result) (s : State) :
    (complete q st n r s).cfg = s.cfg := by cases q <;> rfl
@[simp] theorem complete_phase (q : PortRef) (st : Status) (n : BitVec 3) (r : Result) (s : State) :
    (complete q st n r s).phase = s.phase := by cases q <;> rfl
@[simp] theorem complete_busOwned (q : PortRef) (st : Status) (n : BitVec 3) (r : Result) (s : State) :
    (complete q st n r s).busOwned = s.busOwned := by cases q <;> rfl
@[simp] theorem complete_nextHandle (q : PortRef) (st : Status) (n : BitVec 3) (r : Result) (s : State) :
    (complete q st n r s).nextHandle = s.nextHandle := by cases q <;> rfl
@[simp] theorem complete_lock (q : PortRef) (st : Status) (n : BitVec 3) (r : Result) (s : State) :
    (complete q st n r s).lock = s.lock := by cases q <;> rfl
@[simp] theorem complete_arbLast (q : PortRef) (st : Status) (n : BitVec 3) (r : Result) (s : State) :
    (complete q st n r s).arbLast = s.arbLast := by cases q <;> rfl
@[simp] theorem complete_history (q : PortRef) (st : Status) (n : BitVec 3) (r : Result) (s : State) :
    (complete q st n r s).history = s.history := by cases q <;> rfl
@[simp] theorem complete_delivered (q : PortRef) (st : Status) (n : BitVec 3) (r : Result) (s : State) :
    (complete q st n r s).delivered = s.delivered := by cases q <;> rfl
@[simp] theorem complete_offers (q : PortRef) (st : Status) (n : BitVec 3) (r : Result) (s : State) :
    (complete q st n r s).offers = s.offers := by cases q <;> rfl
@[simp] theorem complete_mOffers (q : PortRef) (st : Status) (n : BitVec 3) (r : Result) (s : State) :
    (complete q st n r s).mOffers = s.mOffers := by cases q <;> rfl
@[simp] theorem complete_turns (q : PortRef) (st : Status) (n : BitVec 3) (r : Result) (s : State) :
    (complete q st n r s).turns = s.turns := by cases q <;> rfl
@[simp] theorem raise_cfg (q : PortRef) (st : Status) (n : BitVec 3) (s : State) :
    (raise q st n s).cfg = s.cfg := by cases q <;> rfl
@[simp] theorem raise_phase (q : PortRef) (st : Status) (n : BitVec 3) (s : State) :
    (raise q st n s).phase = s.phase := by cases q <;> rfl
@[simp] theorem raise_busOwned (q : PortRef) (st : Status) (n : BitVec 3) (s : State) :
    (raise q st n s).busOwned = s.busOwned := by cases q <;> rfl
@[simp] theorem raise_nextHandle (q : PortRef) (st : Status) (n : BitVec 3) (s : State) :
    (raise q st n s).nextHandle = s.nextHandle := by cases q <;> rfl
@[simp] theorem raise_lock (q : PortRef) (st : Status) (n : BitVec 3) (s : State) :
    (raise q st n s).lock = s.lock := by cases q <;> rfl
@[simp] theorem raise_arbLast (q : PortRef) (st : Status) (n : BitVec 3) (s : State) :
    (raise q st n s).arbLast = s.arbLast := by cases q <;> rfl
@[simp] theorem raise_history (q : PortRef) (st : Status) (n : BitVec 3) (s : State) :
    (raise q st n s).history = s.history := by cases q <;> rfl
@[simp] theorem raise_delivered (q : PortRef) (st : Status) (n : BitVec 3) (s : State) :
    (raise q st n s).delivered = s.delivered := by cases q <;> rfl
@[simp] theorem raise_offers (q : PortRef) (st : Status) (n : BitVec 3) (s : State) :
    (raise q st n s).offers = s.offers := by cases q <;> rfl
@[simp] theorem raise_mOffers (q : PortRef) (st : Status) (n : BitVec 3) (s : State) :
    (raise q st n s).mOffers = s.mOffers := by cases q <;> rfl
@[simp] theorem raise_turns (q : PortRef) (st : Status) (n : BitVec 3) (s : State) :
    (raise q st n s).turns = s.turns := by cases q <;> rfl
@[simp] theorem latch_cfg (q : PortRef) (sub : Submission) (s : State) : (latch q sub s).cfg = s.cfg := by cases q <;> rfl
@[simp] theorem latch_phase (q : PortRef) (sub : Submission) (s : State) : (latch q sub s).phase = s.phase := by cases q <;> rfl
@[simp] theorem latch_busOwned (q : PortRef) (sub : Submission) (s : State) : (latch q sub s).busOwned = s.busOwned := by cases q <;> rfl
@[simp] theorem latch_nextHandle (q : PortRef) (sub : Submission) (s : State) : (latch q sub s).nextHandle = s.nextHandle := by cases q <;> rfl
@[simp] theorem latch_lock (q : PortRef) (sub : Submission) (s : State) : (latch q sub s).lock = s.lock := by cases q <;> rfl
@[simp] theorem latch_mst (q : PortRef) (sub : Submission) (s : State) : (latch q sub s).mst = s.mst := by cases q <;> rfl
@[simp] theorem latch_mrsp (q : PortRef) (sub : Submission) (s : State) : (latch q sub s).mrsp = s.mrsp := by cases q <;> rfl
@[simp] theorem latch_arbLast (q : PortRef) (sub : Submission) (s : State) : (latch q sub s).arbLast = s.arbLast := by cases q <;> rfl
@[simp] theorem latch_history (q : PortRef) (sub : Submission) (s : State) : (latch q sub s).history = s.history := by cases q <;> rfl
@[simp] theorem latch_delivered (q : PortRef) (sub : Submission) (s : State) : (latch q sub s).delivered = s.delivered := by cases q <;> rfl
@[simp] theorem latch_turns (q : PortRef) (sub : Submission) (s : State) : (latch q sub s).turns = s.turns.tail := by cases q <;> rfl

/-! ## The port a command completes on -/

@[simp] theorem complete_m_port (st : Status) (n : BitVec 3) (r : Result) (s : State) (p : PortId) :
    (complete .m st n r s).port p = s.port p := rfl

theorem complete_handle_port (p : PortId) (st : Status) (n : BitVec 3) (r : Result) (s : State) (q : PortId) :
    (complete (.handle p) st n r s).port q =
      if q = p then { s.port p with pst := .done, rsp := some (response st n r) } else s.port q :=
  s.port_setPort p q _

@[simp] theorem latch_m_port (sub : Submission) (s : State) (p : PortId) : (latch .m sub s).port p = s.port p := rfl

theorem latch_handle_port (p : PortId) (sub : Submission) (s : State) (q : PortId) :
    (latch (.handle p) sub s).port q =
      if q = p then { s.port p with cmd := some sub.cw, wd := some (latchedLane s.cfg sub.ws) } else s.port q := by
  show ((s.consume (.handle p)).setPort p _).port q = _
  rw [State.port_setPort]; simp

/-! ## Reset -/

@[simp] theorem State.resetWith_port (c : Config) (p : PortId) : (State.resetWith c).port p = PortState.reset := by
  simp [State.port, State.resetWith]

@[simp] theorem resetBlock_port (s : State) (p : PortId) : (resetBlock s).port p = PortState.reset :=
  State.resetWith_port s.cfg p

@[simp] theorem resetBlock_cfg (s : State) : (resetBlock s).cfg = s.cfg := rfl
@[simp] theorem resetBlock_phase (s : State) : (resetBlock s).phase = .setup := rfl
@[simp] theorem resetBlock_busOwned (s : State) : (resetBlock s).busOwned = false := rfl
@[simp] theorem resetBlock_nextHandle (s : State) : (resetBlock s).nextHandle = 0#5 := rfl
@[simp] theorem resetBlock_lock (s : State) : (resetBlock s).lock = none := rfl
@[simp] theorem resetBlock_mst (s : State) : (resetBlock s).mst = .idle := rfl
@[simp] theorem resetBlock_mrsp (s : State) : (resetBlock s).mrsp = none := rfl
@[simp] theorem resetBlock_arbLast (s : State) : (resetBlock s).arbLast = Fin.ofNat 16 (s.cfg.h - 1) := rfl
@[simp] theorem resetBlock_history (s : State) : (resetBlock s).history = s.history := rfl
@[simp] theorem resetBlock_delivered (s : State) : (resetBlock s).delivered = s.delivered := rfl
@[simp] theorem resetBlock_offers (s : State) : (resetBlock s).offers = s.offers := rfl
@[simp] theorem resetBlock_mOffers (s : State) : (resetBlock s).mOffers = s.mOffers := rfl
@[simp] theorem resetBlock_turns (s : State) : (resetBlock s).turns = s.turns.tail := rfl

end Sys2Proof.Machine
end

