-- ==== Sys2Proof/Laws/Ops.lean ====
section
/-! SUPPORT. One lemma per shared operation, saying everything it can do when it answers a next state; later proofs cite these
and leave the operations folded. -/

namespace Sys2Proof.Machine

/-! ## Which command step is due -/

theorem due_eq_accept {s : State} {q : PortRef} {sub : Submission} (h : s.due = .accept q sub) :
    ∃ ts os, s.turns = .submit q :: ts ∧ s.idle q = true ∧ s.offersOf q = sub :: os := by
  unfold State.due at h
  split at h
  · split at h
    · split at h
      · cases h
        exact ⟨_, _, by assumption, by assumption, by assumption⟩
      · cases h
    · cases h
  · split at h <;> cases h
  all_goals cases h

theorem due_eq_perform {s : State} {p : PortId} {o : ChanOutcome} (h : s.due = .perform p o) :
    ∃ ts, s.turns = .channel p o :: ts ∧ s.present p = true ∧ (s.port p).pst = .bus := by
  unfold State.due at h
  split at h
  · split at h
    · split at h <;> cases h
    · cases h
  · split at h
    · rename_i hc
      simp only [Bool.and_eq_true, decide_eq_true_eq] at hc
      cases h
      exact ⟨_, by assumption, hc.1, hc.2⟩
    · cases h
  all_goals cases h

theorem due_accept_of {s : State} {q : PortRef} {sub : Submission} {ts : List Turn} {os : List Submission}
    (ht : s.turns = .submit q :: ts) (hi : s.idle q = true) (ho : s.offersOf q = sub :: os) :
    s.due = .accept q sub := by
  simp [State.due, ht, hi, ho]

theorem due_perform_of {s : State} {p : PortId} {o : ChanOutcome} {ts : List Turn}
    (ht : s.turns = .channel p o :: ts) (hp : s.present p = true) (hb : (s.port p).pst = .bus) :
    s.due = .perform p o := by
  simp [State.due, ht, hp, hb]

/-! ## The decoder -/

theorem decode_eq_ok {c : Config} {w : Word} {ws : List Byte} {i : Instr} :
    decode c w ws = .ok i ↔ decodeWord w = .ok i ∧ i.legal c ws = true := by
  unfold decode
  cases decodeWord w with
  | error e => simp
  | ok j =>
    by_cases h1 : j.wf c <;> by_cases h2 : j.laneOk ws <;>
      simp [Instr.legal, h1, h2] <;> rintro rfl <;> simp [h1, h2]

/-! ## The latched data lane -/

theorem latchedLane_length_le (c : Config) (ws : List Byte) : (latchedLane c ws).length ≤ c.wmax :=
  List.length_take_le c.wmax ws

/-- The lane of a legal command is within WMAX (R81, R82). -/
theorem legal_lane_length_le {c : Config} {i : Instr} {ws : List Byte} (h : i.legal c ws = true) : ws.length ≤ c.wmax := by
  have h : i.wf c = true ∧ ws.length = i.laneLength := by simpa [Instr.legal, Instr.laneOk] using h
  rw [h.2]
  cases i with
  | transact a n m =>
    have h := h.1
    simp only [Instr.wf, Bool.and_eq_true, decide_eq_true_eq] at h
    exact h.1.1
  | _ => exact Nat.zero_le _

/-- The lane of a legal command is latched whole. -/
theorem latchedLane_of_legal {c : Config} {i : Instr} {ws : List Byte} (h : i.legal c ws = true) : latchedLane c ws = ws :=
  List.take_of_length_le (legal_lane_length_le h)

/-! ## The checks -/

theorem check_eq_ok {s : State} {q : PortRef} {ws : List Byte} {i : Instr} :
    check s q ws i = .ok ↔ i.legal s.cfg ws = true ∧ wrongPort q i = false ∧ unacquired s q = false ∧
      checkCommand s q i = .ok := by
  unfold check
  cases i.legal s.cfg ws <;> cases wrongPort q i <;> cases unacquired s q <;> simp

theorem wrongPort_eq_false {q : PortRef} {i : Instr} :
    wrongPort q i = false ↔ (q = .m ↔ i.isManagement = true) := by
  cases q <;> simp [wrongPort]

theorem unacquired_handle {s : State} {p : PortId} :
    unacquired s (.handle p) = false ↔ p.val < s.nextHandle.toNat := by
  simp [unacquired, State.acquired]

theorem checkCommand_acquire {s : State} {q : PortRef} :
    checkCommand s q .acquire = .ok ↔ s.phase = .setup ∧ s.nextHandle.toNat ≠ s.cfg.h := by
  unfold checkCommand
  cases s.phase <;> simp

theorem checkCommand_takeBus {s : State} {q : PortRef} : checkCommand s q .takeBus = .ok ↔ s.busOwned = false := by
  unfold checkCommand
  cases s.busOwned <;> simp

theorem checkCommand_run {s : State} {q : PortRef} : checkCommand s q .run = .ok ↔ s.phase = .setup := by
  unfold checkCommand
  cases s.phase <;> simp

theorem checkCommand_bind {s : State} {p : PortId} {a : BitVec 1} :
    checkCommand s (.handle p) (.bind a) = .ok ↔ (s.port p).bound = false := by
  cases h : (s.port p).bound <;> simp [checkCommand, portBound, h]

theorem checkCommand_bus {s : State} {p : PortId} {i : Instr} (h : i.isBus = true) :
    checkCommand s (.handle p) i = .ok ↔ (i.isDriver = true → (s.port p).bound = true) ∧ s.busOwned = true := by
  cases i <;> simp [Instr.isBus] at h <;>
    cases hx : (s.port p).bound <;> cases hy : s.busOwned <;>
    simp [checkCommand, checkBus, checkDriver, portBound, Instr.isDriver, hx, hy]

/-- A bus command that passes its checks is on an acquired handle port. -/
theorem bus_check_port {s : State} {q : PortRef} {ws : List Byte} {i : Instr} (hb : i.isBus = true)
    (h : check s q ws i = .ok) : ∃ p, q = .handle p := by
  obtain ⟨-, hw, -, -⟩ := check_eq_ok.mp h
  cases q with
  | handle p => exact ⟨p, rfl⟩
  | m => cases i <;> simp [Instr.isBus] at hb <;> simp [wrongPort, Instr.isManagement] at hw

/-! ## Take, grant -/

theorem take_cases {q : PortRef} {s t : State} (h : take q s = .next t) :
    (t = s.passTurn) ∨
    (q = .m ∧ s.mst = .done ∧ ∃ r, s.mrsp = some r ∧
      t = { s.passTurn with mst := .idle, mrsp := none, delivered := s.delivered ++ [(PortRef.m, r)] }) ∨
    (∃ p r, q = .handle p ∧ s.present p = true ∧ (s.port p).pst = .done ∧ (s.port p).rsp = some r ∧
      t = { s.passTurn with delivered := s.delivered ++ [(PortRef.handle p, r)] }.setPort p
        { s.port p with pst := .idle, cmd := none, wd := none, rsp := none }) := by
  unfold take at h
  cases q with
  | m =>
    simp only at h
    split at h
    · split at h
      · cases h; exact .inr (.inl ⟨rfl, ‹_›, _, ‹_›, rfl⟩)
      · cases h
    · cases h; exact .inl rfl
  | handle p =>
    simp only at h
    split at h
    · rename_i hc
      simp only [Bool.and_eq_true, decide_eq_true_eq] at hc
      split at h
      · cases h; exact .inr (.inr ⟨p, _, rfl, hc.1, hc.2, ‹_›, rfl⟩)
      · cases h
    · cases h; exact .inl rfl

theorem roundRobinChoice_waiting {s : State} {p : PortId} (h : roundRobinChoice s = some p) : s.waiting p = true :=
  List.find?_some h

theorem arbChoice_waiting {c p : PortId} {s : State} (h : arbChoice c s = some p) : s.waiting p = true := by
  unfold arbChoice at h
  split at h
  · split at h
    · cases h; assumption
    · cases h
  · exact roundRobinChoice_waiting h

theorem grant_cases (c : PortId) (s : State) :
    grant c s = s.passTurn ∨
    (∃ p, s.lock = none ∧ arbChoice c s = some p ∧ s.present p = true ∧ (s.port p).pst = .wait ∧
      grant c s = { s.passTurn with lock := some p, arbLast := p }.setPort p { s.port p with pst := .bus }) := by
  unfold grant
  split
  · exact .inl rfl
  · split
    · exact .inl rfl
    · rename_i hl _ p hp
      have hw := arbChoice_waiting hp
      simp only [State.waiting, Bool.and_eq_true, decide_eq_true_eq] at hw
      exact .inr ⟨p, hl, hp, hw.1, hw.2, rfl⟩

/-! ## Perform -/

theorem perform_cases {plan : Option (List Xfer)} {result : List Byte → Option Result} {p : PortId} {o : ChanOutcome}
    {s t : State} (h : perform plan result p o s = .next t) :
    ∃ xs x, plan = some xs ∧ xs[(s.port p).step.toNat]? = some x ∧
      ((x.admits o = false ∧ t = s.passTurn) ∨
       (x.admits o = true ∧
        ((∃ ph, o = .err ph ∧
            t = raise (.handle p) (transportStatus ph) (s.port p).step (s.performed p x o)) ∨
         (∃ rs, o = .ok rs ∧ ((s.port p).step + 1).toNat < xs.length ∧
            t = (s.performed p x o).setPort p
              { s.port p with rbuf := (s.port p).rbuf ++ rs, step := (s.port p).step + 1, pst := .wait }) ∨
         (∃ rs r, o = .ok rs ∧ ¬ ((s.port p).step + 1).toNat < xs.length ∧
            result ((s.port p).rbuf ++ rs) = some r ∧
            t = complete (.handle p) r.status 0 r ((s.performed p x o).setPort p
              { s.port p with rbuf := (s.port p).rbuf ++ rs, step := (s.port p).step + 1 }))))) := by
  unfold perform at h
  split at h
  · cases h
  rename_i xs
  split at h
  · cases h
  rename_i x hx
  refine ⟨xs, x, rfl, hx, ?_⟩
  split at h
  · rename_i ha
    refine .inr ⟨ha, ?_⟩
    cases o with
    | err ph => cases h; exact .inl ⟨ph, rfl, rfl⟩
    | ok rs =>
      simp only [continueAfterOk] at h
      split at h
      · cases h; exact .inr (.inl ⟨rs, rfl, ‹_›, rfl⟩)
      · split at h
        · cases h
        · cases h; exact .inr (.inr ⟨rs, _, rfl, ‹_›, ‹_›, rfl⟩)
  · cases h; exact .inl ⟨by simp_all, rfl⟩

/-! ## A command's step -/

theorem runImmediate_cases {i : Instr} {effect : PortRef → State → State × Result} {s t : State}
    (h : runImmediate i effect s = .next t) :
    ∃ q sub, s.due = .accept q sub ∧
      ((check s q sub.ws i = .ok ∧
          t = complete q .ok 0 (effect q (latch q sub s)).2 (effect q (latch q sub s)).1) ∨
       (check s q sub.ws i ≠ .ok ∧ t = raise q (check s q sub.ws i) 0 (latch q sub s))) := by
  unfold runImmediate at h
  split at h
  · cases h
  · split at h <;> cases h
    · exact ⟨_, _, ‹_›, .inl ⟨‹_›, rfl⟩⟩
    · exact ⟨_, _, ‹_›, .inr ⟨‹_›, rfl⟩⟩
  · cases h

theorem runBus_cases {i : Instr} {plan : Config → PortState → Option (List Xfer)}
    {result : Config → List Byte → Option Result} {s t : State} (h : runBus i plan result s = .next t) :
    (∃ q sub, s.due = .accept q sub ∧
      ((check s q sub.ws i = .ok ∧ t = startBus q (latch q sub s)) ∨
       (check s q sub.ws i ≠ .ok ∧ t = raise q (check s q sub.ws i) 0 (latch q sub s)))) ∨
    (∃ p o, s.due = .perform p o ∧ perform (plan s.cfg (s.port p)) (result s.cfg) p o s = .next t) := by
  unfold runBus at h
  split at h
  · cases h
  · split at h <;> cases h
    · exact .inl ⟨_, _, ‹_›, .inl ⟨‹_›, rfl⟩⟩
    · exact .inl ⟨_, _, ‹_›, .inr ⟨‹_›, rfl⟩⟩
  · exact .inr ⟨_, _, ‹_›, h⟩

end Sys2Proof.Machine
end

