-- ==== Sys2Proof/Laws/PerInstr.lean ====
section
/-! SUPPORT. The families of statements that are made once per command. EncodedRow: the word of a command matches the command's own
row of the opcode table, whatever its operands. -/

namespace Sys2Proof.Laws.EncodedRow

/-- R72 to R75, R78: the encoded word has the row's fixed bits. -/
def Statement (i : Instr) : Prop := encode i &&& i.row.mask = i.row.matchBits

theorem acquire : Statement .acquire := by unfold Statement; decide

theorem takeBus : Statement .takeBus := by unfold Statement; decide

theorem run : Statement .run := by unfold Statement; decide

theorem bind (asel : BitVec 1) : Statement (.bind asel) := by unfold Statement; revert asel; decide

theorem transact (addr : Addr7) (wlen rlen : Byte) : Statement (.transact addr wlen rlen) := by
  unfold Statement
  ext k hk
  simp only [encode, Instr.row, BitVec.getElem_and, BitVec.getElem_append]
  interval_cases k <;> simp

theorem readReg (addr : Addr7) (reg : Byte) : Statement (.readReg addr reg) := by
  unfold Statement
  ext k hk
  simp only [encode, Instr.row, BitVec.getElem_and, BitVec.getElem_append]
  interval_cases k <;> simp

theorem writeReg (addr : Addr7) (reg val : Byte) : Statement (.writeReg addr reg val) := by
  unfold Statement
  ext k hk
  simp only [encode, Instr.row, BitVec.getElem_and, BitVec.getElem_append]
  interval_cases k <;> simp

theorem readId : Statement .readId := by unfold Statement; decide

theorem readRange : Statement .readRange := by unfold Statement; decide

theorem readSample : Statement .readSample := by unfold Statement; decide

end Sys2Proof.Laws.EncodedRow
end

