-- ==== Sys2Proof/Laws/Step.lean ====
section
/-! SUPPORT. What one step can do, said once: the moves of the block (R100 to R108, R230) with their guards, and the inversion
lemma that a step which answers a next state is one of them. -/

namespace Sys2Proof.Machine

/-- One move of the block from s, with what enables it. -/
inductive Move (s : State) : State → Prop where
  /-- No turn is left. -/
  | rest (ht : s.turns = []) : Move s s
  /-- The agent whose turn it is has no enabled step. -/
  | pass : Move s s.passTurn
  /-- R230, R231. -/
  | reset (ts : List Turn) (ht : s.turns = .reset :: ts) : Move s (resetBlock s)
  /-- R102. -/
  | grant (c p : PortId) (ts : List Turn) (ht : s.turns = .arbiter c :: ts) (hl : s.lock = none)
      (hc : arbChoice c s = some p) (hp : s.present p = true) (hw : (s.port p).pst = .wait) :
      Move s ({ s.passTurn with lock := some p, arbLast := p }.setPort p { s.port p with pst := .bus })
  /-- R108 on M. -/
  | takeM (ts : List Turn) (r : Response) (ht : s.turns = .take .m :: ts) (hd : s.mst = .done) (hr : s.mrsp = some r) :
      Move s { s.passTurn with mst := .idle, mrsp := none, delivered := s.delivered ++ [(PortRef.m, r)] }
  /-- R108 on a handle port. -/
  | take (ts : List Turn) (p : PortId) (r : Response) (ht : s.turns = .take (.handle p) :: ts)
      (hp : s.present p = true) (hd : (s.port p).pst = .done) (hr : (s.port p).rsp = some r) :
      Move s ({ s.passTurn with delivered := s.delivered ++ [(PortRef.handle p, r)] }.setPort p
        { s.port p with pst := .idle, cmd := none, wd := none, rsp := none })
  /-- R79, R80: the word itself is Illegal. -/
  | illegal (q : PortRef) (sub : Submission) (e : DecodeError) (hd : s.due = .accept q sub)
      (he : decodeWord sub.cw = .error e) : Move s (raise q .illegal 0 (latch q sub s))
  /-- R101, R202: a check failed. -/
  | refuse (q : PortRef) (sub : Submission) (i : Instr) (hd : s.due = .accept q sub) (hi : decodeWord sub.cw = .ok i)
      (hc : check s q sub.ws i ≠ .ok) : Move s (raise q (check s q sub.ws i) 0 (latch q sub s))
  /-- R112. -/
  | acquire (sub : Submission) (hd : s.due = .accept .m sub) (hi : decodeWord sub.cw = .ok .acquire)
      (hc : check s .m sub.ws .acquire = .ok) :
      Move s (complete .m .ok 0 (Result.ofByte (s.nextHandle.setWidth 8))
        { latch .m sub s with nextHandle := s.nextHandle + 1 })
  /-- R113. -/
  | takeBus (sub : Submission) (hd : s.due = .accept .m sub) (hi : decodeWord sub.cw = .ok .takeBus)
      (hc : check s .m sub.ws .takeBus = .ok) :
      Move s (complete .m .ok 0 Result.empty { latch .m sub s with busOwned := true })
  /-- R114. -/
  | run (sub : Submission) (hd : s.due = .accept .m sub) (hi : decodeWord sub.cw = .ok .run)
      (hc : check s .m sub.ws .run = .ok) :
      Move s (complete .m .ok 0 Result.empty { latch .m sub s with phase := .run })
  /-- R151. -/
  | bind (p : PortId) (sub : Submission) (a : BitVec 1) (hd : s.due = .accept (.handle p) sub)
      (hi : decodeWord sub.cw = .ok (.bind a)) (hc : check s (.handle p) sub.ws (.bind a) = .ok) :
      Move s ((s.consume (.handle p)).setPort p
        { s.port p with
          cmd := some sub.cw, wd := some sub.ws, bound := true, asel := a, pst := .done,
          rsp := some (response .ok 0 Result.empty) })
  /-- R101: a bus command waits for the lock. -/
  | accept (p : PortId) (sub : Submission) (i : Instr) (hb : i.isBus = true) (hd : s.due = .accept (.handle p) sub)
      (hi : decodeWord sub.cw = .ok i) (hc : check s (.handle p) sub.ws i = .ok) :
      Move s ((s.consume (.handle p)).setPort p
        { s.port p with cmd := some sub.cw, wd := some sub.ws, step := 0, rbuf := [], pst := .wait })
  /-- R105. -/
  | abort (p : PortId) (o : ChanOutcome) (ph : XferPhase) (cw : Word) (i : Instr) (xs : List Xfer) (x : Xfer)
      (hd : s.due = .perform p o) (hcw : (s.port p).cmd = some cw) (hi : decodeWord cw = .ok i)
      (hxs : planOf s.cfg (s.port p) i = some xs) (hx : xs[(s.port p).step.toNat]? = some x)
      (ha : x.admits o = true) (ho : o = .err ph) :
      Move s (raise (.handle p) (transportStatus ph) (s.port p).step (s.performed p x o))
  /-- R104, with transactions left. -/
  | again (p : PortId) (o : ChanOutcome) (rs : List Byte) (cw : Word) (i : Instr) (xs : List Xfer) (x : Xfer)
      (hd : s.due = .perform p o) (hcw : (s.port p).cmd = some cw) (hi : decodeWord cw = .ok i)
      (hxs : planOf s.cfg (s.port p) i = some xs) (hx : xs[(s.port p).step.toNat]? = some x)
      (ha : x.admits o = true) (ho : o = .ok rs) (hn : ((s.port p).step + 1).toNat < xs.length) :
      Move s ((s.performed p x o).setPort p
        { s.port p with rbuf := (s.port p).rbuf ++ rs, step := (s.port p).step + 1, pst := .wait })
  /-- R104, after the last transaction. -/
  | finish (p : PortId) (o : ChanOutcome) (rs : List Byte) (cw : Word) (i : Instr) (xs : List Xfer) (x : Xfer)
      (r : Result) (hd : s.due = .perform p o) (hcw : (s.port p).cmd = some cw) (hi : decodeWord cw = .ok i)
      (hxs : planOf s.cfg (s.port p) i = some xs) (hx : xs[(s.port p).step.toNat]? = some x)
      (ha : x.admits o = true) (ho : o = .ok rs) (hn : ¬ ((s.port p).step + 1).toNat < xs.length)
      (hr : resultOf s.cfg ((s.port p).rbuf ++ rs) i = some r) :
      Move s ((s.performed p x o).setPort p
        { s.port p with
          rbuf := (s.port p).rbuf ++ rs, step := (s.port p).step + 1, pst := .done,
          rsp := some (response r.status 0 r) })

/-! ## Accepted commands -/

theorem setPort_setPort (s : State) (p : PortId) (x y : PortState) : (s.setPort p x).setPort p y = s.setPort p y := by
  simp [State.setPort]

theorem complete_handle_setPort (s : State) (p : PortId) (st : Status) (n : BitVec 3) (r : Result) (x : PortState) :
    complete (.handle p) st n r (s.setPort p x) =
      s.setPort p { x with pst := .done, rsp := some (response st n r) } := by
  simp [complete, setPort_setPort]

theorem startBus_latch {s : State} {p : PortId} {sub : Submission} {i : Instr}
    (h : check s (.handle p) sub.ws i = .ok) :
    startBus (.handle p) (latch (.handle p) sub s) = (s.consume (.handle p)).setPort p
      { s.port p with cmd := some sub.cw, wd := some sub.ws, step := 0, rbuf := [], pst := .wait } := by
  simp [startBus, latch, setPort_setPort, latchedLane_of_legal (check_eq_ok.mp h).1]

theorem bindEffect_latch {s : State} {p : PortId} {sub : Submission} {a : BitVec 1}
    (h : check s (.handle p) sub.ws (.bind a) = .ok) :
    complete (.handle p) .ok 0 (bindEffect a (.handle p) (latch (.handle p) sub s)).2
        (bindEffect a (.handle p) (latch (.handle p) sub s)).1 =
      (s.consume (.handle p)).setPort p
        { s.port p with
          cmd := some sub.cw, wd := some sub.ws, bound := true, asel := a, pst := .done,
          rsp := some (response .ok 0 Result.empty) } := by
  simp [bindEffect, latch, complete_handle_setPort, setPort_setPort, latchedLane_of_legal (check_eq_ok.mp h).1]

/-- A management command that passes its checks is on M. -/
theorem mgmt_check_port {s : State} {q : PortRef} {ws : List Byte} {i : Instr} (hb : i.isManagement = true)
    (h : check s q ws i = .ok) : q = .m :=
  (wrongPort_eq_false.mp (check_eq_ok.mp h).2.1).mpr hb

/-- BIND passes its checks only on a handle port. -/
theorem bind_check_port {s : State} {q : PortRef} {ws : List Byte} {a : BitVec 1}
    (h : check s q ws (.bind a) = .ok) : ∃ p, q = .handle p := by
  have := wrongPort_eq_false.mp (check_eq_ok.mp h).2.1
  cases q with
  | handle p => exact ⟨p, rfl⟩
  | m => simp [Instr.isManagement] at this

/-! ## exec -/

/-- A bus command's meaning is runBus over its row of the plan and result tables. -/
theorem exec_bus {i : Instr} (h : i.isBus = true) (s : State) :
    exec i s = runBus i (fun c x => planOf c x i) (fun c rb => resultOf c rb i) s := by
  cases i <;> first | rfl | simp [Instr.isBus] at h

theorem exec_bus_move {i : Instr} (hb : i.isBus = true) {s t : State} (h : exec i s = .next t)
    (hi : ∀ q sub, s.due = .accept q sub → decodeWord sub.cw = .ok i)
    (hp : ∀ p o, s.due = .perform p o → ∃ cw, (s.port p).cmd = some cw ∧ decodeWord cw = .ok i) : Move s t := by
  rw [exec_bus hb] at h
  rcases runBus_cases h with ⟨q, sub, hd, ⟨hc, rfl⟩ | ⟨hc, rfl⟩⟩ | ⟨p, o, hd, hpf⟩
  · obtain ⟨p, rfl⟩ := bus_check_port hb hc
    rw [startBus_latch hc]
    exact .accept p sub i hb hd (hi _ _ hd) hc
  · exact .refuse q sub i hd (hi _ _ hd) hc
  · obtain ⟨cw, hcw, hdec⟩ := hp p o hd
    obtain ⟨xs, x, hxs, hx, ⟨-, rfl⟩ | ⟨ha, ⟨ph, ho, rfl⟩ | ⟨rs, ho, hn, rfl⟩ | ⟨rs, r, ho, hn, hr, rfl⟩⟩⟩ :=
      perform_cases hpf
    · exact .pass
    · exact .abort p o ph cw i xs x hd hcw hdec hxs hx ha ho
    · exact .again p o rs cw i xs x hd hcw hdec hxs hx ha ho hn
    · rw [complete_handle_setPort]
      exact .finish p o rs cw i xs x r hd hcw hdec hxs hx ha ho hn hr

theorem exec_move {i : Instr} {s t : State} (h : exec i s = .next t)
    (hi : ∀ q sub, s.due = .accept q sub → decodeWord sub.cw = .ok i)
    (hp : ∀ p o, s.due = .perform p o → ∃ cw, (s.port p).cmd = some cw ∧ decodeWord cw = .ok i) : Move s t := by
  by_cases hb : i.isBus = true
  · exact exec_bus_move hb h hi hp
  · have key : ∀ {e}, exec i s = runImmediate i e s → ∃ q sub, s.due = .accept q sub ∧ decodeWord sub.cw = .ok i ∧
        ((check s q sub.ws i = .ok ∧ t = complete q .ok 0 (e q (latch q sub s)).2 (e q (latch q sub s)).1) ∨
         Move s t) := by
      intro e he
      rw [he] at h
      obtain ⟨q, sub, hd, hc | ⟨hc, rfl⟩⟩ := runImmediate_cases h
      · exact ⟨q, sub, hd, hi _ _ hd, .inl hc⟩
      · exact ⟨q, sub, hd, hi _ _ hd, .inr (.refuse q sub i hd (hi _ _ hd) hc)⟩
    cases i with
    | acquire =>
      obtain ⟨q, sub, hd, hdec, ⟨hc, rfl⟩ | hm⟩ := key (e := acquireEffect) rfl
      · obtain rfl := mgmt_check_port rfl hc; exact .acquire sub hd hdec hc
      · exact hm
    | takeBus =>
      obtain ⟨q, sub, hd, hdec, ⟨hc, rfl⟩ | hm⟩ := key (e := takeBusEffect) rfl
      · obtain rfl := mgmt_check_port rfl hc; exact .takeBus sub hd hdec hc
      · exact hm
    | run =>
      obtain ⟨q, sub, hd, hdec, ⟨hc, rfl⟩ | hm⟩ := key (e := runEffect) rfl
      · obtain rfl := mgmt_check_port rfl hc; exact .run sub hd hdec hc
      · exact hm
    | bind a =>
      obtain ⟨q, sub, hd, hdec, ⟨hc, rfl⟩ | hm⟩ := key (e := bindEffect a) rfl
      · obtain ⟨p, rfl⟩ := bind_check_port hc
        rw [bindEffect_latch hc]; exact .bind p sub a hd hdec hc
      · exact hm
    | transact | readReg | writeReg | readId | readRange | readSample => exact absurd rfl hb

/-! ## step -/

theorem fetch_eq_run {s : State} {i : Instr} (h : fetch s = .run i) :
    (∃ q sub, s.due = .accept q sub ∧ decodeWord sub.cw = .ok i) ∨
    (∃ p o cw, s.due = .perform p o ∧ (s.port p).cmd = some cw ∧ decodeWord cw = .ok i) := by
  unfold fetch at h
  split at h
  · cases h
  · split at h <;> cases h
    exact .inl ⟨_, _, ‹_›, ‹_›⟩
  · split at h
    · cases h
    · split at h <;> cases h
      exact .inr ⟨_, _, _, ‹_›, ‹_›, ‹_›⟩

theorem fetch_eq_illegal {s : State} {q : PortRef} {sub : Submission} (h : fetch s = .illegal q sub) :
    s.due = .accept q sub ∧ ∃ e, decodeWord sub.cw = .error e := by
  unfold fetch at h
  split at h
  · cases h
  · split at h <;> cases h
    exact ⟨‹_›, _, ‹_›⟩
  · split at h
    · cases h
    · split at h <;> cases h

/-- A turn that enables a command step runs it. -/
theorem step_of_accept {s : State} {q : PortRef} {sub : Submission} (h : s.due = .accept q sub) : step s = runDue s := by
  obtain ⟨ts, os, ht, -⟩ := due_eq_accept h
  simp [step, ht]

theorem step_of_perform {s : State} {p : PortId} {o : ChanOutcome} (h : s.due = .perform p o) : step s = runDue s := by
  obtain ⟨ts, ht, -⟩ := due_eq_perform h
  simp [step, ht]

theorem runDue_move {s t : State} (h : runDue s = .next t) : Move s t := by
  unfold runDue at h
  split at h
  · cases h; exact .pass
  · obtain ⟨hd, e, he⟩ := fetch_eq_illegal ‹_›
    cases h; exact .illegal _ _ e hd he
  · rename_i i hf
    rcases fetch_eq_run hf with ⟨q, sub, hd, hi⟩ | ⟨p, o, cw, hd, hcw, hi⟩
    · refine exec_move h (fun q' sub' hd' => ?_) (fun p' o' hd' => ?_) <;> rw [hd] at hd' <;> cases hd'
      exact hi
    · refine exec_move h (fun q' sub' hd' => ?_) (fun p' o' hd' => ?_) <;> rw [hd] at hd' <;> cases hd'
      exact ⟨cw, hcw, hi⟩
  · cases h

/-- A step that answers a next state makes one of the moves. -/
theorem step_move {s t : State} (h : step s = .next t) : Move s t := by
  unfold step at h
  split at h
  · cases h; exact .rest ‹_›
  · cases h; exact .reset _ ‹_›
  · rename_i c ts ht
    cases h
    rcases grant_cases c s with h | ⟨p, hl, hc, hp, hw, h⟩ <;> rw [h]
    · exact .pass
    · exact .grant c p ts ht hl hc hp hw
  · rename_i q ts ht
    rcases take_cases h with rfl | ⟨rfl, hd, r, hr, rfl⟩ | ⟨p, r, rfl, hp, hd, hr, rfl⟩
    · exact .pass
    · exact .takeM ts r ht hd hr
    · exact .take ts p r ht hp hd hr
  · exact runDue_move h
  · exact runDue_move h

/-! ## Runs -/

theorem run_succ {s t : State} (h : step s = .next t) (k : Nat) : core.run (k + 1) s = core.run k t := by
  have h' : core.step s = .next t := h
  simp only [Host.Core.run]
  rw [h']

end Sys2Proof.Machine
end

