-- ==== Sys2Proof/Laws/Plan.lean ====
section
/-! SUPPORT. The plan and result tables, the response words and the forward equations of a perform step: what later proofs cite
instead of unfolding them. -/

namespace Sys2Proof.Machine

/-! ## Plans and results -/

/-- A plan depends on the port only through WD and ASEL (R106). -/
theorem planOf_congr {c : Config} {x y : PortState} {i : Instr} (hw : x.wd = y.wd) (ha : x.asel = y.asel) :
    planOf c x i = planOf c y i := by
  cases i <;>
    simp [planOf, planTransact, planReadReg, planWriteReg, planReadId, planReadRange, planReadSample, hw, ha]

/-- Every plan of a bus command has 1 to 7 entries (R106). -/
theorem planOf_bus {c : Config} {x : PortState} {i : Instr} {ws : List Byte} (hb : i.isBus = true) (hw : x.wd = some ws) :
    ∃ xs, planOf c x i = some xs ∧ 0 < xs.length ∧ xs.length ≤ 7 := by
  cases i <;> simp [Instr.isBus] at hb <;>
    simp [planOf, planTransact, planReadReg, planWriteReg, planReadId, planReadRange, planReadSample, hw,
      Config.sampleRegs]

theorem planOf_length_le {c : Config} {x : PortState} {i : Instr} {xs : List Xfer} (h : planOf c x i = some xs) :
    xs.length ≤ 7 := by
  cases i <;>
    simp [planOf, planTransact, planReadReg, planWriteReg, planReadId, planReadRange, planReadSample,
      Config.sampleRegs] at h
  case transact => split at h <;> simp at h; subst h; simp
  all_goals subst h; simp

theorem bytesRead_succ {xs : List Xfer} {n : Nat} {x : Xfer} (h : xs[n]? = some x) :
    bytesRead xs (n + 1) = bytesRead xs n + x.m := by
  simp [bytesRead, List.take_add_one, h]

/-- STEP does not wrap while a transaction of the plan is left (R28). -/
theorem step_succ {n : BitVec 3} {k : Nat} (h : n.toNat < k) (h7 : k ≤ 7) : (n + 1).toNat = n.toNat + 1 := by
  rw [BitVec.toNat_add]; simp; omega

/-- A bus command has a result once its plan's bytes are read (R107). -/
theorem resultOf_whole {c : Config} {x : PortState} {i : Instr} {xs : List Xfer} {rb : List Byte} (hb : i.isBus = true)
    (hx : planOf c x i = some xs) (hl : rb.length = bytesRead xs xs.length) : ∃ r, resultOf c rb i = some r := by
  cases i <;> simp [Instr.isBus] at hb <;>
    simp [planOf, planReadReg, planWriteReg, planReadId, planReadRange, planReadSample, Config.sampleRegs] at hx <;>
    simp only [resultOf, resultTransact, resultReadReg, resultWriteReg, resultReadId, resultReadRange,
      resultReadSample, byteResult]
  case transact => exact ⟨_, rfl⟩
  case writeReg => exact ⟨_, rfl⟩
  all_goals subst hx
  case readSample =>
    simp [bytesRead, memRead] at hl
    match rb, hl with
    | [_, _, _, _, _, _, _], _ => exact ⟨_, rfl⟩
  all_goals
    simp [bytesRead, memRead] at hl
    match rb, hl with
    | [_], _ => exact ⟨_, rfl⟩

theorem devAddr_eq (c : Config) (a : BitVec 1) : devAddr c a = if a = 0#1 then c.devAddr0 else c.devAddr1 := by
  rcases BitVec.eq_zero_or_eq_one a with rfl | rfl <;> simp [devAddr]

/-- Latching depends on the configuration and on CMD, WD and ASEL of the port. -/
theorem Latched.congr {s t : State} {p : PortId} {i : Instr} {xs : List Xfer} (h : Latched s p i xs) (hc : t.cfg = s.cfg)
    (h1 : (t.port p).cmd = (s.port p).cmd) (h2 : (t.port p).wd = (s.port p).wd)
    (h3 : (t.port p).asel = (s.port p).asel) : Latched t p i xs := by
  obtain ⟨cw, ws, a, b, c, d⟩ := h
  exact ⟨cw, ws, h1 ▸ a, h2 ▸ b, hc ▸ c, by rw [hc, planOf_congr h2 h3, d]⟩

/-! ## Response words -/

theorem responseWord_status (st : Status) : responseWord st 0#3 0#8 0#3 = st.code.setWidth 32 := by cases st <;> rfl

theorem responseWord_byte (b : Byte) : responseWord .ok 0#3 b 0#3 = b.setWidth 32 <<< 16 := by revert b; decide

theorem responseWord_writeError (n : BitVec 3) :
    responseWord .transportWrite n 0#8 0#3 = 0x00000001#32 ||| n.setWidth 32 <<< 8 := by revert n; decide

theorem responseWord_readError (n : BitVec 3) :
    responseWord .transportRead n 0#8 0#3 = 0x00000002#32 ||| n.setWidth 32 <<< 8 := by revert n; decide

/-! ## A perform step, forwards -/

theorem continueAfterOk_again {xs : List Xfer} {result : List Byte → Option Result} {p : PortId} {rs : List Byte}
    {s : State} (h : ((s.port p).step + 1).toNat < xs.length) :
    continueAfterOk xs result p rs s = .next (s.setPort p
      { s.port p with rbuf := (s.port p).rbuf ++ rs, step := (s.port p).step + 1, pst := .wait }) := by
  simp only [continueAfterOk]
  exact if_pos h

theorem continueAfterOk_finish {xs : List Xfer} {result : List Byte → Option Result} {p : PortId} {rs : List Byte}
    {s : State} {r : Result} (h : ¬ ((s.port p).step + 1).toNat < xs.length)
    (hr : result ((s.port p).rbuf ++ rs) = some r) :
    continueAfterOk xs result p rs s = .next (s.setPort p
      { s.port p with
        rbuf := (s.port p).rbuf ++ rs, step := (s.port p).step + 1, pst := .done,
        rsp := some (response r.status 0 r) }) := by
  simp only [continueAfterOk, hr, complete_handle_setPort]
  exact if_neg h

theorem perform_ok {xs : List Xfer} {x : Xfer} {result : List Byte → Option Result} {p : PortId} {rs : List Byte}
    {s : State} (hx : xs[(s.port p).step.toNat]? = some x) (hl : rs.length = x.m) :
    perform (some xs) result p (.ok rs) s = continueAfterOk xs result p rs (s.performed p x (.ok rs)) := by
  simp [perform, hx, Xfer.admits, hl]

theorem perform_err {xs : List Xfer} {x : Xfer} {result : List Byte → Option Result} {p : PortId} {ph : XferPhase}
    {s : State} (hx : xs[(s.port p).step.toNat]? = some x) (ha : x.admits (.err ph) = true) :
    perform (some xs) result p (.err ph) s =
      .next (raise (.handle p) (transportStatus ph) (s.port p).step (s.performed p x (.err ph))) := by
  simp [perform, hx, ha]

end Sys2Proof.Machine
end

