-- ==== Sys2Proof/Tests/Slice0.lean ====
section
/-! SUPPORT. Tests. Expected values are the spec's own vectors (95_test_vectors.md; the section is named at each test) or are worked
out by hand from the rule named. The second half shows, for each statement with hypotheses, data that meet them. -/

namespace Sys2Proof.Tests

open Sys2Proof Sys2Proof.Machine

/-! ## Helpers -/

/-- The next state, if there is one. -/
def after (o : Host.Outcome State Fault Refusal) : Option State :=
  match o with
  | .next t => some t
  | .fault _ => none
  | .refused _ => none

/-- s with the turn u first. -/
def given (u : Turn) (s : State) : State := { s with turns := u :: s.turns }

/-- The bus is owned, P0 and P1 are acquired, P0 is bound to AD0 and P1 to AD1. -/
def owned : State :=
  ({ State.reset with busOwned := true, nextHandle := 2#5 }.setPort 0 { PortState.reset with bound := true }).setPort 1
    { PortState.reset with bound := true, asel := 1#1 }

/-- The same with 16 handles, the longest buffers, every handle acquired and an open arbiter; P15 is bound to AD1. -/
def wide : State :=
  { State.reset with
    cfg := { Config.reference with h := 16, wmax := 255, rmax := 255, arb := .anyWaiting }, arbLast := 15,
    busOwned := true, nextHandle := 16#5 }.setPort 15 { PortState.reset with bound := true, asel := 1#1 }

/-- Port p has this command outstanding, at step n with these bytes read. -/
def busy (s : State) (p : PortId) (pst : PortStatus) (cw : Word) (ws : List Byte) (n : BitVec 3) (rb : List Byte) : State :=
  { s with lock := if pst = PortStatus.bus then some p else s.lock }.setPort p
    { s.port p with pst := pst, cmd := some cw, wd := some ws, step := n, rbuf := rb }

/-- Port p holds this response. -/
def finished (s : State) (p : PortId) (r : Response) : State :=
  s.setPort p { s.port p with pst := .done, cmd := some 0x8#32, wd := some [], rsp := some r }

/-- The response of port p after the step. -/
def responseOf (s : State) (p : PortId) : Option Response := (after (step s)).bind fun t => (t.port p).rsp

/-- The response of M after the step. -/
def mResponseOf (s : State) : Option Response := (after (step s)).bind fun t => t.mrsp

/-- The event the step records. -/
def eventOf (s : State) : Option BusEvent := (after (step s)).bind fun t => t.history.getLast?

/-! ## Well-formedness: each check refuses its ill-formed term (R81, R82) -/

theorem test_wf_write_too_long : (Instr.transact 0x68#7 17#8 0#8).wf Config.reference = false := by decide
theorem test_wf_read_too_long : (Instr.transact 0x68#7 0#8 17#8).wf Config.reference = false := by decide
theorem test_wf_no_byte : (Instr.transact 0x68#7 0#8 0#8).wf Config.reference = false := by decide
theorem test_wf_longest : (Instr.transact 0x68#7 16#8 16#8).wf Config.reference = true := by decide
theorem test_lane_short : (Instr.transact 0x68#7 1#8 1#8).laneOk [] = false := by decide
theorem test_lane_not_empty : (Instr.bind 0#1).laneOk [0#8] = false := by decide
theorem test_config_reference : Config.reference.wf := by decide
theorem test_config_same_addresses : ¬ { Config.reference with devAddr1 := 0x68#7 }.wf := by decide
theorem test_config_not_a_bijection : ¬ { Config.reference with rangeTable := #v[.fs16, .fs8, .fs4, .fs4] }.wf := by decide
theorem test_config_high_byte_first : ¬ { Config.reference with x := ⟨0x0C#8, 0x0B#8⟩ }.wf := by decide

/-! ## Decoding: words of 95_test_vectors.md L2.1, every command among them -/

theorem test_decode_acquire : decode .reference 0x00000001#32 [] = .ok .acquire := by decide
theorem test_decode_takeBus : decode .reference 0x00000002#32 [] = .ok .takeBus := by decide
theorem test_decode_run : decode .reference 0x00000003#32 [] = .ok .run := by decide
theorem test_decode_bind : decode .reference 0x00000014#32 [] = .ok (.bind 1#1) := by decide
theorem test_decode_transact : decode .reference 0x01010685#32 [0x75#8] = .ok (.transact 0x68#7 1#8 1#8) := by decide
theorem test_decode_readReg : decode .reference 0x00750686#32 [] = .ok (.readReg 0x68#7 0x75#8) := by decide
theorem test_decode_writeReg :
    decode .reference 0xFF2107F7#32 [] = .ok (.writeReg 0x7F#7 0x21#8 0xFF#8) := by decide
theorem test_decode_readId : decode .reference 0x00000008#32 [] = .ok .readId := by decide
theorem test_decode_readRange : decode .reference 0x00000009#32 [] = .ok .readRange := by decide
theorem test_decode_readSample : decode .reference 0x0000000A#32 [] = .ok .readSample := by decide
theorem test_decode_longest_read :
    decode .reference 0x10000685#32 [] = .ok (.transact 0x68#7 0#8 16#8) := by decide
theorem test_decode_illegal :
    ([(0x00000000#32, []), (0x00000010#32, []), (0x00000011#32, []), (0x80000001#32, []), (0x00000024#32, []),
      (0x00000004#32, [0#8]), (0x01010685#32, []), (0x00000685#32, []), (0x11000685#32, []),
      (0x00110685#32, List.replicate 17 0#8), (0x01010E85#32, [0#8]), (0x01750686#32, []), (0x00750E86#32, []),
      (0x46210687#32, [0#8]), (0x00000018#32, []), (0x8000000A#32, []), (0x0000000B#32, []), (0x0000000F#32, []),
      (0xFFFFFFFF#32, [])] : List (Word × List Byte)).all
      (fun e => match decode .reference e.1 e.2 with | .ok _ => false | .error _ => true) = true := by decide
/-- The words of R92's table. -/
theorem test_encode :
    [Instr.acquire, .takeBus, .run, .bind 0#1, .bind 1#1, .readId, .readRange, .readSample].map encode =
      [0x1#32, 0x2#32, 0x3#32, 0x4#32, 0x14#32, 0x8#32, 0x9#32, 0xA#32] := by decide
theorem test_encode_writeReg : encode (.writeReg 0x68#7 0x21#8 0x46#8) = 0x46210687#32 := by decide
/-- The first row of each format as the host numbers it; a TRANSACT word without lengths is a row's word still. -/
theorem test_decodeTableWord :
    decodeTableWord 32 0x00000005 = some (.transact 0#7 0#8 0#8) ∧ decodeTableWord 32 0x0000000A = some .readSample ∧
    decodeTableWord 32 0x00000011 = none := by decide

/-! ## Assembler: the lines of L2.1 -/

theorem test_assemble_transact :
    assembleLine .reference "TRANSACT 0x68, [0x75], 1".toList = some (none, ⟨0x01010685#32, [0x75#8]⟩) := by decide
theorem test_assemble_start_meas :
    assembleLine .reference "P0: START_MEAS 0x68, [0x0B, 0x99]".toList =
      some (some (.handle 0), ⟨0x00020685#32, [0x0B#8, 0x99#8]⟩) := by decide
theorem test_assemble_fetch :
    assembleLine .reference "FETCH 0x68, 2".toList = some (none, ⟨0x02000685#32, []⟩) := by decide
theorem test_assemble_write_reg :
    assembleLine .reference "WRITE_REG 0x68, 0x21, 0x06".toList = some (none, ⟨0x06210687#32, []⟩) := by decide
theorem test_assemble_bind : assembleLine .reference "BIND AD1".toList = some (none, ⟨0x00000014#32, []⟩) := by decide
theorem test_assemble_management :
    assembleLine .reference "M: TAKE_BUS".toList = some (some .m, ⟨0x00000002#32, []⟩) := by decide
/-- R92: an operand that does not fit its field, and lengths that break R81. -/
theorem test_assemble_refused :
    assembleLine .reference "READ_REG 0x80, 0x21".toList = none ∧
    assembleLine .reference "TRANSACT 0x68, [], 0".toList = none ∧
    assembleLine .reference "TRANSACT 0x68, [256], 0".toList = none := by decide

/-! ## Operands: L1-1, L1-3, L1-4, L2.7, L2.8, L2.9 -/

theorem test_assemble16 :
    (assemble16 0x00#8 0x01#8).toInt = 256 ∧ (assemble16 0xFF#8 0x7F#8).toInt = 32767 ∧
    (assemble16 0x00#8 0x80#8).toInt = -32768 ∧ (assemble16 0x18#8 0xFC#8).toInt = -1000 := by decide
theorem test_decodeRange :
    [0x00#8, 0x9F#8, 0x20#8, 0xBF#8, 0x46#8, 0xDF#8, 0x60#8, 0xFF#8].map (decodeRange .reference) =
      [.fs16, .fs16, .fs8, .fs8, .fs4, .fs4, .fs2, .fs2] := by decide
theorem test_scale_source_example : scale 16384 4 = 0x40000100#32 := by decide
theorem test_scale_ends :
    [0, 1, -1, 32767, -32767, -32768].map (scale · 2) =
      [0x00000000#32, 0x38800100#32, 0xB8800100#32, 0x40000000#32, 0xC0000000#32, 0xC0000100#32] := by decide
theorem test_scale_rounding :
    scale 12345 2 = 0x3F40E582#32 ∧ scale 1000 16 = 0x3EFA01F4#32 ∧ scale 24576 8 = 0x40C00180#32 ∧
    scale 16383 4 = 0x3FFFFE00#32 := by decide
/-- R57: least-significant byte first. -/
theorem test_wordBytes : wordBytes 0x01010685#32 = [0x85#8, 0x06#8, 0x01#8, 0x01#8] := by decide

/-! ## Commands, at most two tests each -/

/-- L2.3, line 4. -/
theorem test_acquire_last_handle :
    mResponseOf (offerNow .m ⟨0x1#32, []⟩ { State.reset with nextHandle := 3#5 }) = some ⟨0x00030000#32, none⟩ := by decide
/-- L2.3, line 5. -/
theorem test_acquire_exhausted :
    mResponseOf (offerNow .m ⟨0x1#32, []⟩ { State.reset with nextHandle := 4#5 }) = some ⟨0x00000013#32, none⟩ := by decide
/-- L2.3, line 6. -/
theorem test_takeBus :
    (after (step (offerNow .m ⟨0x2#32, []⟩ State.reset))).map State.busOwned = some true := by decide
/-- L2.3, line 7. -/
theorem test_takeBus_again : mResponseOf (offerNow .m ⟨0x2#32, []⟩ owned) = some ⟨0x00000015#32, none⟩ := by decide
/-- L2.3, line 8. -/
theorem test_run : (after (step (offerNow .m ⟨0x3#32, []⟩ State.reset))).map State.phase = some .run := by decide
/-- L2.3, line 9. -/
theorem test_run_again :
    mResponseOf (offerNow .m ⟨0x3#32, []⟩ { State.reset with phase := .run }) = some ⟨0x00000014#32, none⟩ := by decide
/-- L2.4, row 3. -/
theorem test_bind :
    (after (step (offerNow (.handle 1) ⟨0x14#32, []⟩ { State.reset with nextHandle := 2#5 }))).map
      (fun t => ((t.port 1).bound, (t.port 1).asel, (t.port 1).rsp)) =
      some (true, 1#1, some ⟨0x00000000#32, none⟩) := by decide
/-- L2.4, row 4. -/
theorem test_bind_lane_not_empty :
    responseOf (offerNow (.handle 1) ⟨0x4#32, [0#8]⟩ { State.reset with nextHandle := 2#5 }) 1 =
      some ⟨0x00000010#32, none⟩ := by decide
/-- L2.5, row 2. -/
theorem test_transact :
    responseOf (given (.channel 0 (.ok [0x34#8, 0x12#8])) (busy owned 0 .bus 0x02010685#32 [0x0B#8] 0#3 [])) 0 =
      some ⟨0x00000000#32, some (.rdata [0x34#8, 0x12#8])⟩ := by decide
/-- L2.5, row 4. -/
theorem test_transact_read_only_fails :
    responseOf (given (.channel 0 (.err .read)) (busy owned 0 .bus 0x02000505#32 [] 0#3 [])) 0 =
      some ⟨0x00000002#32, none⟩ := by decide
/-- L2.6, row 1. -/
theorem test_readReg :
    responseOf (given (.channel 0 (.ok [0x67#8])) (busy owned 0 .bus 0x00750686#32 [] 0#3 [])) 0 =
      some ⟨0x00670000#32, none⟩ := by decide
/-- L2.6, row 8. -/
theorem test_readReg_read_fails :
    responseOf (given (.channel 0 (.err .read)) (busy owned 0 .bus 0x00210686#32 [] 0#3 [])) 0 =
      some ⟨0x00000002#32, none⟩ := by decide
/-- L1-2, row 1: the event of a register write, offset first. -/
theorem test_writeReg :
    eventOf (given (.channel 0 (.ok [])) (busy owned 0 .bus 0x46210687#32 [] 0#3 [])) =
      some ⟨0, ⟨0x68#7, [0x21#8, 0x46#8], 0⟩, .ok []⟩ := by decide
/-- R109 item 2: a write-only transaction cannot fail in a read phase; the turn passes. -/
theorem test_writeReg_no_read_error :
    (after (step (given (.channel 0 (.err .read)) (busy owned 0 .bus 0x46210687#32 [] 0#3 [])))).map
      (fun t => ((t.port 0).pst, t.history)) = some (.bus, []) := by decide
/-- L1-7, line 4. -/
theorem test_readId :
    responseOf (given (.channel 0 (.ok [0x67#8])) (busy owned 0 .bus 0x8#32 [] 0#3 [])) 0 =
      some ⟨0x00670000#32, none⟩ := by decide
/-- L2.10, row 7. -/
theorem test_readId_on_AD1 :
    eventOf (given (.channel 1 (.err .write)) (busy owned 1 .bus 0x8#32 [] 0#3 [])) =
      some ⟨1, ⟨0x69#7, [0x75#8], 1⟩, .err .write⟩ := by decide
/-- L1-1, first row. -/
theorem test_readRange_code_zero :
    responseOf (given (.channel 0 (.ok [0x00#8])) (busy owned 0 .bus 0x9#32 [] 0#3 [])) 0 =
      some ⟨0x03000000#32, some (.fs 0x41800000#32)⟩ := by decide
/-- L2.10, row 2. -/
theorem test_readRange :
    responseOf (given (.channel 0 (.ok [0x46#8])) (busy owned 0 .bus 0x9#32 [] 0#3 [])) 0 =
      some ⟨0x01000000#32, some (.fs 0x40800000#32)⟩ := by decide
/-- R155, the example. -/
theorem test_readSample :
    responseOf (given (.channel 0 (.ok [0x46#8]))
      (busy owned 0 .bus 0xA#32 [] 6#3 [0x00#8, 0x40#8, 0xFF#8, 0x7F#8, 0x00#8, 0x80#8])) 0 =
      some ⟨0x01000000#32, some (.sample 0x4000#16 0x7FFF#16 0x8000#16 0x40000100#32 0x40800000#32 0xC0800100#32
        0x40800000#32)⟩ := by decide
/-- L2.10, row 4. -/
theorem test_readSample_fails_at_step_3 :
    responseOf (given (.channel 0 (.err .read)) (busy owned 0 .bus 0xA#32 [] 3#3 [0x01#8, 0x00#8, 0x02#8])) 0 =
      some ⟨0x00000302#32, none⟩ := by decide

/-! ## Steps that belong to no one command -/

/-- L2.2, rows 2 to 6 and 8: which of several failing checks is reported. -/
theorem test_check_order :
    responseOf (offerNow (.handle 3) ⟨0xB#32, []⟩ State.reset) 3 = some ⟨0x00000010#32, none⟩ ∧
    responseOf (offerNow (.handle 0) ⟨0x1#32, []⟩ State.reset) 0 = some ⟨0x00000011#32, none⟩ ∧
    mResponseOf (offerNow .m ⟨0x8#32, []⟩ State.reset) = some ⟨0x00000011#32, none⟩ ∧
    responseOf (offerNow (.handle 3) ⟨0x8#32, []⟩ State.reset) 3 = some ⟨0x00000012#32, none⟩ ∧
    responseOf (offerNow (.handle 0) ⟨0x8#32, []⟩ { State.reset with nextHandle := 1#5 }) 0 =
      some ⟨0x00000017#32, none⟩ ∧
    responseOf (offerNow (.handle 0) ⟨0x00750686#32, []⟩ { State.reset with nextHandle := 1#5 }) 0 =
      some ⟨0x00000016#32, none⟩ := by decide
/-- L2.2, row 10: E_PHASE beats exhaustion. -/
theorem test_check_phase_first :
    mResponseOf (offerNow .m ⟨0x1#32, []⟩ { State.reset with phase := .run, nextHandle := 4#5 }) =
      some ⟨0x00000014#32, none⟩ := by decide
/-- L2.11: from reset, with P0 and P1 waiting, round-robin grants P0 first. -/
theorem test_round_robin :
    (after (step (given (.arbiter 1) (busy (busy owned 0 .wait 0xA#32 [] 0#3 []) 1 .wait 0x8#32 [] 0#3 [])))).map
      State.lock = some (some 0) := by decide
/-- L2.11, grant 2: once P0 was the last, P1 goes before it. -/
theorem test_round_robin_next :
    (after (step (given (.arbiter 0)
      { busy (busy owned 0 .wait 0xA#32 [] 1#3 [0#8]) 1 .wait 0x8#32 [] 0#3 [] with arbLast := 0 }))).map
      State.lock = some (some 1) := by decide
/-- L2.12: a submission on a busy port waits. -/
theorem test_busy_port_keeps_the_offer :
    (after (step (offerNow (.handle 0) ⟨0x8#32, []⟩ (busy owned 0 .wait 0xA#32 [] 0#3 [])))).map
      (fun t => ((t.port 0).cmd, t.offers[0])) = some (some 0xA#32, [⟨0x8#32, []⟩]) := by decide
/-- L2.12: a response is taken once. -/
theorem test_take :
    (after (step (given (.take (.handle 0)) (finished owned 0 ⟨0x00670000#32, none⟩)))).map
      (fun t => ((t.port 0).pst, (t.port 0).rsp, t.delivered)) =
      some (.idle, none, [(.handle 0, ⟨0x00670000#32, none⟩)]) := by decide
/-- R231: a reset drops what is outstanding. -/
theorem test_reset_drops :
    (after (step (given .reset (busy owned 0 .bus 0xA#32 [] 3#3 [0#8])))).map
      (fun t => (t.port 0, t.lock, t.busOwned, t.nextHandle)) = some (PortState.reset, none, false, 0#5) := by decide
/-- R27: an Illegal lane of 17 bytes leaves WMAX of them in WD, and a legal one of 16 stands whole. -/
theorem test_latched_lane :
    (after (step (offerNow (.handle 0) ⟨0x00110685#32, List.replicate 17 0xAA#8⟩ owned))).map
      (fun t => ((t.port 0).wd, (t.port 0).rsp)) = some (some (List.replicate 16 0xAA#8), some ⟨0x00000010#32, none⟩) ∧
    (after (step (offerNow (.handle 0) ⟨0x00100685#32, List.replicate 16 0xAA#8⟩ owned))).map
      (fun t => ((t.port 0).wd, (t.port 0).pst)) = some (some (List.replicate 16 0xAA#8), .wait) := by decide
/-- withFetchWord places a command so that the next step runs it. -/
theorem test_withFetchWord :
    (after (step (State.reset.withFetchWord 32 0x00000002))).map State.busOwned = some true ∧
    responseOf (State.reset.withFetchWord 32 0x0000000A) 0 = some ⟨0x00000012#32, none⟩ ∧
    responseOf (owned.withFetchWord 32 0x00000005) 0 = some ⟨0x00000010#32, none⟩ := by decide

/-! ## Witnesses: data that meet the hypotheses of each statement, clause by clause -/

/-- A READ_SAMPLE of P0 in flight at its last transaction, a TRANSACT of P1 that waits, and a refused READ_ID of P2, which is not
acquired. -/
def inFlight : State :=
  { finished
      (busy (busy owned 1 .wait 0x02010685#32 [0x0B#8] 0#3 []) 0 .bus 0xA#32 [] 6#3
        [0x00#8, 0x40#8, 0xFF#8, 0x7F#8, 0x00#8, 0x80#8]) 2 ⟨0x00000012#32, none⟩ with
    history :=
      [⟨0, ⟨0x68#7, [0x0B#8], 1⟩, .ok [0x00#8]⟩, ⟨0, ⟨0x68#7, [0x0C#8], 1⟩, .ok [0x40#8]⟩,
       ⟨0, ⟨0x68#7, [0x0D#8], 1⟩, .ok [0xFF#8]⟩, ⟨0, ⟨0x68#7, [0x0E#8], 1⟩, .ok [0x7F#8]⟩,
       ⟨0, ⟨0x68#7, [0x0F#8], 1⟩, .ok [0x00#8]⟩, ⟨0, ⟨0x68#7, [0x10#8], 1⟩, .ok [0x80#8]⟩] }

/-- A state with commands outstanding that meets the invariant. -/
theorem witness_inv : Inv inFlight where
  cfgWf := by decide
  lockIsBus := by decide
  pendingReady := by unfold PortState.pending; decide
  handlesWithinH := by decide
  pendingPlan p hp := by
    have h01 : p = 0 ∨ p = 1 := by revert hp; unfold PortState.pending; revert p; decide
    rcases h01 with rfl | rfl
    · exact ⟨.readSample, _, ⟨0xA#32, [], by decide, by decide, by decide, rfl⟩, by decide, by decide, by decide, by decide⟩
    · exact ⟨.transact 0x68#7 1#8 2#8, _, ⟨0x02010685#32, [0x0B#8], by decide, by decide, by decide, rfl⟩, by decide,
        by decide, by decide, by decide⟩
  cmdWhileBusy := by decide
  wdWithinBounds := by decide
  rspWhileDone := by decide
  mrspWhileDone := by decide
  rbufWithinBounds := by decide
  absentPorts := by decide
  lastIsPort := by decide

theorem witness_EncodeReadsBackEveryDecoding : decodeWord 0xFF2107F7#32 = .ok (.writeReg 0x7F#7 0x21#8 0xFF#8) := by decide

theorem witness_DecodingFollowsTheOpcodeTable :
    (⟨0x00000005#32, 0x0000F80F#32⟩ : OpcodeRow) ∈ opcodeTable ∧ 0xFFFF07F5#32 &&& 0x0000F80F#32 = 0x00000005#32 ∧
    decodeWord 0xFFFF07F5#32 = .ok (.transact 0x7F#7 0xFF#8 0xFF#8) := by decide

/-- The longest TRANSACT, at WMAX and RMAX; and a command without data. -/
theorem witness_LengthsAndLaneDecideLegality :
    decodeWord 0x10100685#32 = .ok (.transact 0x68#7 16#8 16#8) ∧
    decode .reference 0x10100685#32 (List.replicate 16 0#8) = .ok (.transact 0x68#7 16#8 16#8) ∧
    decodeWord 0x00000008#32 = .ok .readId ∧ (∀ a n m, Instr.readId ≠ .transact a n m) :=
  ⟨by decide, by decide, by decide, fun _ _ _ h => nomatch h⟩

theorem witness_OperandsAreUnsignedFields :
    decodeWord 0x00000014#32 = .ok (.bind 1#1) ∧ decodeWord 0xFFFF07F5#32 = .ok (.transact 0x7F#7 0xFF#8 0xFF#8) ∧
    decodeWord 0x00FF07F6#32 = .ok (.readReg 0x7F#7 0xFF#8) ∧
    decodeWord 0xFFFF07F7#32 = .ok (.writeReg 0x7F#7 0xFF#8 0xFF#8) := by decide

theorem witness_AssembledCommandsDecode :
    assemble .reference (.transact 127 [0, 255] 16) = some ⟨0x100207F5#32, [0#8, 0xFF#8]⟩ ∧
    assemble .reference (.startMeas 0x68 [0x0B, 0x99]) = some ⟨0x00020685#32, [0x0B#8, 0x99#8]⟩ ∧
    assemble .reference (.fetch 0x68 2) = some ⟨0x02000685#32, []⟩ := by decide

theorem witness_SubmissionNeedsAnIdlePort :
    (offerNow .m ⟨0x1#32, []⟩ State.reset).due = .accept .m ⟨0x1#32, []⟩ ∧
    (offerNow (.handle 3) ⟨0x8#32, []⟩ State.reset).due = .accept (.handle 3) ⟨0x8#32, []⟩ ∧
    (offerNow (.handle 4) ⟨0x8#32, []⟩ State.reset).due = .nothing ∧
    (offerNow (.handle 15) ⟨0x8#32, []⟩ wide).due = .accept (.handle 15) ⟨0x8#32, []⟩ := by decide

theorem witness_SubmissionOnABusyPortWaits :
    (offerNow .m ⟨0x1#32, []⟩ { owned with mst := .done, mrsp := some ⟨0#32, none⟩ }).mst = .done ∧
    ((offerNow (.handle 0) ⟨0x8#32, []⟩ inFlight).port 0).pst ≠ .idle := by decide

theorem witness_StepRunsTheDecodedCommand :
    (offerNow (.handle 0) ⟨0x8#32, []⟩ owned).due = .accept (.handle 0) ⟨0x8#32, []⟩ ∧
    decode owned.cfg 0x8#32 [] = .ok .readId ∧
    (given (.channel 0 (.ok [0x46#8])) inFlight).due = .perform 0 (.ok [0x46#8]) ∧
    (inFlight.port 0).cmd = some 0xA#32 ∧ decodeWord 0xA#32 = .ok .readSample := by decide

/-- One for each way to be Illegal, on both classes of port. -/
theorem witness_IllegalSubmissionCompletesAtOnce :
    decode State.reset.cfg 0x0#32 [] = .error .reservedOpcode ∧ decode State.reset.cfg 0x11#32 [] = .error .reservedBits ∧
    decode State.reset.cfg 0x685#32 [] = .error .illegalLength ∧ decode State.reset.cfg 0x4#32 [0#8] = .error .illegalLane ∧
    (offerNow .m ⟨0x0#32, []⟩ State.reset).due = .accept .m ⟨0x0#32, []⟩ ∧
    (offerNow (.handle 3) ⟨0x685#32, []⟩ State.reset).due = .accept (.handle 3) ⟨0x685#32, []⟩ := by decide

/-- Each status of the check is reached. -/
theorem witness_FirstFailingCheckIsReported :
    check owned (.handle 0) [] (.transact 0#7 0#8 0#8) = .illegal ∧ check owned (.handle 0) [] .run = .wrongPort ∧
    check owned (.handle 2) [] .readId = .notAcquired ∧ check { owned with phase := .run } .m [] .run = .phase ∧
    check { owned with nextHandle := 4#5 } .m [] .acquire = .handlesExhausted ∧
    check owned .m [] .takeBus = .busTaken ∧ check owned (.handle 1) [] (.bind 1#1) = .alreadyBound ∧
    check (owned.setPort 0 PortState.reset) (.handle 0) [] .readSample = .notBound ∧
    check { owned with busOwned := false } (.handle 1) [] .readRange = .busNotOwned ∧
    check owned (.handle 1) [] .readRange = .ok := by decide

theorem witness_RefusedCommandOnlyCompletes :
    (offerNow .m ⟨0x2#32, []⟩ owned).due = .accept .m ⟨0x2#32, []⟩ ∧
    check (offerNow .m ⟨0x2#32, []⟩ owned) .m [] .takeBus ≠ .ok ∧
    (offerNow (.handle 2) ⟨0x8#32, []⟩ owned).due = .accept (.handle 2) ⟨0x8#32, []⟩ ∧
    check (offerNow (.handle 2) ⟨0x8#32, []⟩ owned) (.handle 2) [] .readId ≠ .ok := by decide

theorem witness_WrongClassOfPortIsReported :
    (Instr.readId).legal State.reset.cfg [] = true ∧ Instr.readId ∉ [Instr.acquire, .takeBus, .run] ∧
    (offerNow .m ⟨0x8#32, []⟩ State.reset).due = .accept .m ⟨0x8#32, []⟩ ∧
    (Instr.run).legal State.reset.cfg [] = true ∧ Instr.run ∈ [Instr.acquire, .takeBus, .run] ∧
    (offerNow (.handle 3) ⟨0x3#32, []⟩ State.reset).due = .accept (.handle 3) ⟨0x3#32, []⟩ := by decide

/-- The last handle of the reference profile, and of H = 16. -/
theorem witness_AcquireGivesTheNextHandle :
    (let s := offerNow .m ⟨0x1#32, []⟩ { State.reset with nextHandle := 3#5 }
     s.due = .accept .m ⟨0x1#32, []⟩ ∧ s.phase = .setup ∧ s.nextHandle.toNat ≠ s.cfg.h) ∧
    (let s := offerNow .m ⟨0x1#32, []⟩ { wide with nextHandle := 15#5 }
     s.due = .accept .m ⟨0x1#32, []⟩ ∧ s.phase = .setup ∧ s.nextHandle.toNat ≠ s.cfg.h) := by decide

theorem witness_TakeBusTakesTheBus :
    (offerNow .m ⟨0x2#32, []⟩ State.reset).due = .accept .m ⟨0x2#32, []⟩ ∧ State.reset.busOwned = false := by decide

theorem witness_RunBeginsNormalOperation :
    (offerNow .m ⟨0x3#32, []⟩ State.reset).due = .accept .m ⟨0x3#32, []⟩ ∧ State.reset.phase = .setup := by decide

theorem witness_ImmediateCommandsFailFast :
    (let s := offerNow .m ⟨0x1#32, []⟩ { owned with phase := .run }
     s.due = .accept .m ⟨0x1#32, []⟩ ∧ s.phase = .run ∧ s.busOwned = true) ∧
    (let s := offerNow .m ⟨0x1#32, []⟩ { owned with nextHandle := 4#5 }
     s.due = .accept .m ⟨0x1#32, []⟩ ∧ s.phase = .setup ∧ s.nextHandle.toNat = s.cfg.h) ∧
    (let s := offerNow (.handle 2) ⟨0x4#32, []⟩ owned
     s.due = .accept (.handle 2) ⟨0x4#32, []⟩ ∧ ¬ (2 : PortId).val < s.nextHandle.toNat) ∧
    (let s := offerNow (.handle 1) ⟨0x4#32, []⟩ owned
     s.due = .accept (.handle 1) ⟨0x4#32, []⟩ ∧ (1 : PortId).val < s.nextHandle.toNat ∧ (s.port 1).bound = true) := by decide

theorem witness_BindBindsTheSubmittingPort :
    (let s := offerNow (.handle 14) ⟨0x14#32, []⟩ { wide with nextHandle := 15#5 }
     s.due = .accept (.handle 14) ⟨0x14#32, []⟩ ∧ (14 : PortId).val < s.nextHandle.toNat ∧ (s.port 14).bound = false) := by
  decide

/-- A driver command on the last port of H = 16, and the longest TRANSACT on an unbound port. -/
theorem witness_BusCommandWaitsForTheLock :
    (let s := offerNow (.handle 15) ⟨0xA#32, []⟩ wide
     (Instr.readSample).isBus = true ∧ s.due = .accept (.handle 15) ⟨0xA#32, []⟩ ∧
     (Instr.readSample).legal s.cfg [] = true ∧ (15 : PortId).val < s.nextHandle.toNat ∧ s.busOwned = true ∧
     ((Instr.readSample).isDriver = true → (s.port 15).bound = true)) ∧
    (let ws := List.replicate 16 0#8
     let s := offerNow (.handle 0) ⟨0x10100685#32, ws⟩ (owned.setPort 0 PortState.reset)
     s.due = .accept (.handle 0) ⟨0x10100685#32, ws⟩ ∧ (Instr.transact 0x68#7 16#8 16#8).legal s.cfg ws = true ∧
     (0 : PortId).val < s.nextHandle.toNat ∧ s.busOwned = true ∧
     ((Instr.transact 0x68#7 16#8 16#8).isDriver = true → (s.port 0).bound = true)) := by decide

theorem witness_BusCommandFailsFast :
    (let s := offerNow (.handle 2) ⟨0x8#32, []⟩ owned
     s.due = .accept (.handle 2) ⟨0x8#32, []⟩ ∧ (Instr.readId).legal s.cfg [] = true ∧
     ¬ (2 : PortId).val < s.nextHandle.toNat) ∧
    (let s := offerNow (.handle 1) ⟨0x8#32, []⟩ (owned.setPort 1 PortState.reset)
     s.due = .accept (.handle 1) ⟨0x8#32, []⟩ ∧ (1 : PortId).val < s.nextHandle.toNat ∧
     (Instr.readId).isDriver = true ∧ (s.port 1).bound = false) ∧
    (let s := offerNow (.handle 1) ⟨0x8#32, []⟩ { owned with busOwned := false }
     s.due = .accept (.handle 1) ⟨0x8#32, []⟩ ∧ (1 : PortId).val < s.nextHandle.toNat ∧ (s.port 1).bound = true ∧
     s.busOwned = false) := by decide

theorem witness_AnyWaitingPortMayBeGranted :
    (let s := given (.arbiter 15) (busy wide 15 .wait 0xA#32 [] 0#3 [])
     s.cfg.arb = .anyWaiting ∧ s.turns = [.arbiter 15] ∧ s.lock = none ∧ (15 : PortId).val < s.cfg.h ∧
     (s.port 15).pst = .wait) := by decide

theorem witness_NoGrantWithoutAFreeLockAndAWaiter :
    (given (.arbiter 1) inFlight).lock ≠ none ∧
    (∀ p : PortId, p.val < (given (.arbiter 1) owned).cfg.h → ((given (.arbiter 1) owned).port p).pst ≠ .wait) := by decide

/-- P0 was granted last; P1 and then P0 again are waiting. -/
theorem witness_RoundRobinGrantsTheFirstWaiter :
    (let s := given (.arbiter 0) { busy (busy owned 0 .wait 0xA#32 [] 1#3 [0#8]) 1 .wait 0x8#32 [] 0#3 [] with arbLast := 0 }
     s.cfg.wf ∧ s.cfg.arb = .roundRobin ∧ s.arbLast.val < s.cfg.h ∧ s.turns = [.arbiter 0] ∧ s.lock = none ∧
     (1 : PortId).val < s.cfg.h ∧ (s.port 1).pst = .wait ∧
     (∀ q : PortId, q.val < s.cfg.h → (s.port q).pst = .wait → roundRobinDistance s 1 ≤ roundRobinDistance s q)) := by decide

/-- P0, granted last, is H - 1 grants away. -/
theorem witness_RoundRobinWaitIsBounded :
    (let s := given (.arbiter 0) { busy (busy owned 0 .wait 0xA#32 [] 1#3 [0#8]) 1 .wait 0x8#32 [] 0#3 [] with arbLast := 0 }
     s.cfg.wf ∧ s.cfg.arb = .roundRobin ∧ s.arbLast.val < s.cfg.h ∧ (0 : PortId).val < s.cfg.h ∧ (s.port 0).pst = .wait ∧
     s.turns = [.arbiter 0] ∧ s.lock = none ∧ roundRobinDistance s 0 = s.cfg.h - 1) ∧
    (let s := given (.take .m) (busy owned 0 .wait 0xA#32 [] 1#3 [0#8])
     (s.port 0).pst = .wait ∧ (after (step s)).isSome = true ∧ s.turns.head? = some (.take .m)) := by decide

/-- A write-only, a read-only and a longest transaction. -/
theorem witness_TransactReturnsTheBytesRead :
    (let s := given (.channel 0 (.ok [])) (busy owned 0 .bus 0x00020685#32 [0x0B#8, 0x99#8] 0#3 [])
     s.due = .perform 0 (.ok []) ∧ (s.port 0).wd = some [0x0B#8, 0x99#8] ∧ (s.port 0).step = 0 ∧ (s.port 0).rbuf = []) ∧
    (let s := given (.channel 0 (.ok [0x12#8, 0#8])) (busy owned 0 .bus 0x02000685#32 [] 0#3 [])
     s.due = .perform 0 (.ok [0x12#8, 0#8]) ∧ (s.port 0).wd = some [] ∧ [0x12#8, 0#8].length = (2#8 : Byte).toNat) := by
  decide

theorem witness_ReadRegReturnsTheByteRead :
    (let s := given (.channel 0 (.ok [0xFF#8])) (busy owned 0 .bus 0x00FF07F6#32 [] 0#3 [])
     s.due = .perform 0 (.ok [0xFF#8]) ∧ (s.port 0).step = 0 ∧ (s.port 0).rbuf = []) := by decide

theorem witness_WriteRegWritesOffsetThenValue :
    (let s := given (.channel 0 (.ok [])) (busy owned 0 .bus 0xFFFF07F7#32 [] 0#3 [])
     s.due = .perform 0 (.ok []) ∧ (s.port 0).step = 0 ∧ (s.port 0).rbuf = []) := by decide

/-- On both device addresses. -/
theorem witness_ReadIdReturnsTheByteRead :
    (let s := given (.channel 0 (.ok [0x67#8])) (busy owned 0 .bus 0x8#32 [] 0#3 [])
     s.due = .perform 0 (.ok [0x67#8]) ∧ (s.port 0).step = 0 ∧ (s.port 0).rbuf = [] ∧ (s.port 0).asel = 0#1) ∧
    (let s := given (.channel 1 (.ok [0x00#8])) (busy owned 1 .bus 0x8#32 [] 0#3 [])
     s.due = .perform 1 (.ok [0x00#8]) ∧ (s.port 1).step = 0 ∧ (s.port 1).rbuf = [] ∧ (s.port 1).asel = 1#1) := by decide

theorem witness_ReadRangeReportsTheSetting :
    (let s := given (.channel 0 (.ok [0xFF#8])) (busy owned 0 .bus 0x9#32 [] 0#3 [])
     s.cfg.wf ∧ s.due = .perform 0 (.ok [0xFF#8]) ∧ (s.port 0).step = 0 ∧ (s.port 0).rbuf = []) := by decide

/-- The first and the sixth sample byte. -/
theorem witness_ReadSampleReadsSixSampleBytes :
    (let s := given (.channel 0 (.ok [0x00#8])) (busy owned 0 .bus 0xA#32 [] 0#3 [])
     s.due = .perform 0 (.ok [0x00#8]) ∧ s.cfg.sampleRegs[(s.port 0).step.toNat]? = some 0x0B#8) ∧
    (let s := given (.channel 0 (.ok [0x80#8])) (busy owned 0 .bus 0xA#32 [] 5#3 (List.replicate 5 0#8))
     s.due = .perform 0 (.ok [0x80#8]) ∧ s.cfg.sampleRegs[(s.port 0).step.toNat]? = some 0x10#8) := by decide

theorem witness_ReadSampleScalesWithTheFreshRange :
    (let s := given (.channel 0 (.ok [0x46#8])) inFlight
     s.cfg.wf ∧ s.due = .perform 0 (.ok [0x46#8]) ∧ (s.port 0).step = 6 ∧
     (s.port 0).rbuf = [0x00#8, 0x40#8, 0xFF#8, 0x7F#8, 0x00#8, 0x80#8]) := by decide

/-- With transactions left, and at the last one. -/
theorem witness_OkTransactionAdvancesThePlan :
    (let s := given (.channel 0 (.ok [0#8])) (busy owned 0 .bus 0xA#32 [] 5#3 (List.replicate 5 0#8))
     (Instr.readSample).isBus = true ∧ s.due = .perform 0 (.ok [0#8]) ∧ (s.port 0).step.toNat < 7 ∧
     ∃ xs x, planOf s.cfg (s.port 0) .readSample = some xs ∧ xs[(s.port 0).step.toNat]? = some x ∧ [0#8].length = x.m ∧
       (s.port 0).step.toNat + 1 < xs.length) ∧
    (let s := given (.channel 0 (.ok [0x46#8])) inFlight
     ∃ xs x r, planOf s.cfg (s.port 0) .readSample = some xs ∧ xs[(s.port 0).step.toNat]? = some x ∧
       [0x46#8].length = x.m ∧ (s.port 0).step.toNat + 1 = xs.length ∧
       resultOf s.cfg ((s.port 0).rbuf ++ [0x46#8]) .readSample = some r) :=
  ⟨⟨by decide, by decide, by decide, _, _, rfl, rfl, rfl, by decide⟩, _, _, _, rfl, rfl, rfl, rfl, rfl⟩

/-- A write phase and a read phase that fail, at the last step of READ_SAMPLE. -/
theorem witness_FailedTransactionEndsTheCommand :
    (given (.channel 0 (.err .write)) inFlight).due = .perform 0 (.err .write) ∧
    (given (.channel 0 (.err .read)) inFlight).due = .perform 0 (.err .read) ∧
    ∃ xs x, planOf inFlight.cfg (inFlight.port 0) .readSample = some xs ∧
      xs[(inFlight.port 0).step.toNat]? = some x ∧ x.ws ≠ [] ∧ x.m ≠ 0 :=
  ⟨by decide, by decide, _, _, rfl, rfl, by decide, by decide⟩

/-- A READ_RANGE on the last of 16 ports waits to be served. -/
def waitingToBeServed : State :=
  let s := busy wide 15 .wait 0x9#32 [] 0#3 []
  { s with turns := serveTurns 15 [[0x46#8]] ++ [.take (.handle 15)] }

theorem witness_ServedCommandCompletes :
    Inv waitingToBeServed ∧ waitingToBeServed.cfg.arb = .anyWaiting ∧ waitingToBeServed.lock = none ∧
    (waitingToBeServed.port 15).pst = .wait ∧
    ∃ xs, Latched waitingToBeServed 15 .readRange xs ∧
      [[0x46#8]].map List.length = (xs.drop (waitingToBeServed.port 15).step.toNat).map Xfer.m ∧
      waitingToBeServed.turns = serveTurns 15 [[0x46#8]] ++ [.take (.handle 15)] := by
  refine ⟨⟨by decide, by decide, by unfold PortState.pending; decide, by decide, fun p hp => ?_, by decide, by decide,
    by decide, by decide, by decide, by decide, by decide⟩, by decide, by decide, by decide, _,
    ⟨0x9#32, [], by decide, by decide, by decide, rfl⟩, rfl, rfl⟩
  have h15 : p = 15 := by revert hp; unfold PortState.pending; revert p; decide
  subst h15
  exact ⟨.readRange, _, ⟨0x9#32, [], by decide, by decide, by decide, rfl⟩, by decide, by decide, by decide, by decide⟩

theorem witness_TakeDeliversTheResponseOnce :
    (let s := given (.take .m) { owned with mst := .done, mrsp := some ⟨0#32, none⟩ }
     s.turns = [.take .m] ∧ s.mst = .done ∧ s.mrsp = some ⟨0#32, none⟩) ∧
    (let s := given (.take (.handle 3)) (finished owned 3 ⟨0x12#32, none⟩)
     s.turns = [.take (.handle 3)] ∧ (3 : PortId).val < s.cfg.h ∧ (s.port 3).pst = .done ∧
     (s.port 3).rsp = some ⟨0x12#32, none⟩) ∧
    (given (.take .m) owned).mst = .idle ∧ ((given (.take (.handle 0)) inFlight).port 0).pst ≠ .done := by decide

theorem witness_ResetDropsWhatIsOutstanding : (given .reset inFlight).turns = [.reset] := by decide

/-- ResetMeetsTheInvariant, RangeDecoderIsTotalAndEven. -/
theorem witness_ResetMeetsTheInvariant : Config.reference.wf ∧ wide.cfg.wf := by decide

/-- inFlight, its last answer to come. -/
def lastAnswer : State := given (.channel 0 (.ok [0x46#8])) inFlight

theorem witness_lastAnswer_inv : Inv lastAnswer :=
  ⟨witness_inv.cfgWf, witness_inv.lockIsBus, witness_inv.pendingReady, witness_inv.handlesWithinH, witness_inv.pendingPlan,
    witness_inv.cmdWhileBusy, witness_inv.wdWithinBounds, witness_inv.rspWhileDone, witness_inv.mrspWhileDone, witness_inv.rbufWithinBounds,
    witness_inv.absentPorts, witness_inv.lastIsPort⟩

theorem witness_lastAnswer_events : EventsFollowPlans lastAnswer := by
  intro p hp
  have h01 : p = 0 ∨ p = 1 := by revert hp; unfold PortState.pending; revert p; decide
  rcases h01 with rfl | rfl
  · exact ⟨.readSample, _, [], [[0x00#8], [0x40#8], [0xFF#8], [0x7F#8], [0x00#8], [0x80#8]],
      ⟨0xA#32, [], by decide, by decide, by decide, rfl⟩, rfl, rfl, rfl⟩
  · exact ⟨.transact 0x68#7 1#8 2#8, _, [], [], ⟨0x02010685#32, [0x0B#8], by decide, by decide, by decide, rfl⟩, rfl, rfl,
      rfl⟩

theorem witness_lastAnswer_lawful : LawfulHistory lastAnswer := by unfold LawfulHistory; decide

theorem witness_lastAnswer_canonical : CanonicalResponses lastAnswer := by
  refine ⟨fun p r hr => ?_, fun r hr => (nomatch hr), fun e he => (nomatch he)⟩
  have h2 : p = 2 := by
    have hs : (lastAnswer.port p).rsp ≠ none := by simp [hr]
    revert hs; clear hr; revert p; decide
  subst h2
  obtain rfl : r = ⟨0x00000012#32, none⟩ := (Option.some.inj hr).symm
  exact ⟨by decide, by decide, by decide, by decide, by decide, by decide⟩

/-- EveryStepKeepsTheInvariant, NoStepStops, PortsMoveAsSpecified, GlobalFieldsNeverDecrease, StepAndReadBufferMoveAsSpecified,
ConfigurationIsFixed, LockIsHeldForOneTransaction, HistoryRecordsPlannedTransactions, EveryStepKeepsPlanOrder,
EveryStepKeepsTheChannelContract, EveryStepKeepsResponsesCanonical: one step that ends a command and moves the lock, the
history, STEP and RBUF. -/
theorem witness_EveryStep :
    Inv lastAnswer ∧ EventsFollowPlans lastAnswer ∧ LawfulHistory lastAnswer ∧ CanonicalResponses lastAnswer ∧
    (∃ t, step lastAnswer = .next t) ∧ (∀ ts, lastAnswer.turns ≠ .reset :: ts) :=
  ⟨witness_lastAnswer_inv, witness_lastAnswer_events, witness_lastAnswer_lawful, witness_lastAnswer_canonical, ⟨_, rfl⟩,
    fun _ h => nomatch h⟩

/-- GlobalFieldsHaveOneWriter: each of the three fields is written by some step. -/
theorem witness_GlobalFieldsHaveOneWriter :
    (after (step (offerNow .m ⟨0x3#32, []⟩ owned))).map State.phase ≠ some owned.phase ∧
    (after (step (offerNow .m ⟨0x2#32, []⟩ State.reset))).map State.busOwned ≠ some false ∧
    (after (step (offerNow .m ⟨0x1#32, []⟩ owned))).map State.nextHandle ≠ some owned.nextHandle := by decide

/-- BindingIsImmutable: a bound port, and a port that a step binds. -/
theorem witness_BindingIsImmutable :
    (inFlight.port 0).bound = true ∧ (after (step (given (.channel 0 (.ok [0x46#8])) inFlight))).isSome = true ∧
    (after (step (offerNow (.handle 1) ⟨0x14#32, []⟩ (owned.setPort 1 PortState.reset)))).map
      (fun t => ((t.port 1).bound, (t.port 1).asel)) = some (true, 1#1) := by decide

/-- OtherPortsAreUndisturbed: a turn of each kind it names. -/
theorem witness_OtherPortsAreUndisturbed :
    ([offerNow (.handle 0) ⟨0x8#32, []⟩ owned, given (.take (.handle 0)) (finished owned 0 ⟨0x12#32, none⟩),
      given (.channel 0 (.ok [0x46#8])) inFlight, offerNow .m ⟨0x3#32, []⟩ inFlight, given (.take .m) inFlight].all
      fun s => (after (step s)).isSome) = true := by decide

theorem witness_ScaleHasTheListedProperties :
    ∀ f ∈ [2, 4, 8, 16], f ∈ settings.map (fun e => e.2.2.2) := by decide

/-- ScaleRoundsToNearestEven, FullScaleOnlyMovesTheExponent: the ends of the raw range and the smallest magnitude (R186 items 2, 4
and 6); a finite word to compare with. -/
theorem witness_ScaleRoundsToNearestEven :
    scale (-32768) 16 = 0xC1800100#32 ∧ scale 32767 16 = 0x41800000#32 ∧ scale 1 2 = 0x38800100#32 ∧
    FiniteWord 0x41800000#32 := by unfold FiniteWord; decide

end Sys2Proof.Tests
end

section
/-! # What a step does to one port

A step other than a reset touches at most one handle port. `PortStep` lists what it can make of that port, of the lock and of the
history; `step_cases` reads it off the moves of Laws/Step.lean, and the proofs about ports, lock and history start there. -/

namespace Sys2Proof.Machine

/-! ## Guards of a step on a handle port -/

theorem present_iff {s : State} {p : PortId} : s.present p = true ↔ p.val < s.cfg.h := by
  simp [State.present]

theorem due_accept_handle {s : State} {p : PortId} {sub : Submission} (h : s.due = .accept (.handle p) sub) :
    p.val < s.cfg.h ∧ (s.port p).pst = .idle := by
  obtain ⟨ts, os, -, hi, -⟩ := due_eq_accept h
  simpa [State.idle, present_iff] using hi

theorem due_perform_port {s : State} {p : PortId} {o : ChanOutcome} (h : s.due = .perform p o) :
    p.val < s.cfg.h ∧ (s.port p).pst = .bus := by
  obtain ⟨ts, -, hp, hb⟩ := due_eq_perform h
  exact ⟨present_iff.mp hp, hb⟩

/-- The transaction x of the plan xs of the latched command i is due on port p, and the channel may answer it with o. -/
structure Performs (s : State) (p : PortId) (o : ChanOutcome) (i : Instr) (xs : List Xfer) (x : Xfer) : Prop where
  due : s.due = .perform p o
  latched : ∃ cw, (s.port p).cmd = some cw ∧ decodeWord cw = .ok i
  plan : planOf s.cfg (s.port p) i = some xs
  atStep : xs[(s.port p).step.toNat]? = some x
  admitted : x.admits o = true

/-! ## The port steps -/

/-- What a step other than a reset can make of a port p it touches, of the lock and of the history. -/
inductive PortStep (s : State) (p : PortId) : PortState → Option PortId → List BusEvent → Prop where
  /-- R102. -/
  | grant (c : PortId) (ts : List Turn) (ht : s.turns = .arbiter c :: ts) (hl : s.lock = none) (hp : p.val < s.cfg.h)
      (hw : (s.port p).pst = .wait) : PortStep s p { s.port p with pst := .bus } (some p) s.history
  /-- R108. -/
  | take (ts : List Turn) (ht : s.turns = .take (.handle p) :: ts) (hp : p.val < s.cfg.h) (hd : (s.port p).pst = .done) :
      PortStep s p { s.port p with pst := .idle, cmd := none, wd := none, rsp := none } s.lock s.history
  /-- R79, R80, R202: an Illegal word, or a failed check. -/
  | refuse (sub : Submission) (st : Status) (hd : s.due = .accept (.handle p) sub) :
      PortStep s p
        { s.port p with
          cmd := some sub.cw, wd := some (latchedLane s.cfg sub.ws), pst := .done,
          rsp := some (response st 0 Result.empty) } s.lock s.history
  /-- R151. -/
  | bind (sub : Submission) (a : BitVec 1) (hd : s.due = .accept (.handle p) sub)
      (hi : decodeWord sub.cw = .ok (.bind a)) (hc : check s (.handle p) sub.ws (.bind a) = .ok) :
      PortStep s p
        { s.port p with
          cmd := some sub.cw, wd := some sub.ws, bound := true, asel := a, pst := .done,
          rsp := some (response .ok 0 Result.empty) } s.lock s.history
  /-- R101. -/
  | accept (sub : Submission) (i : Instr) (hb : i.isBus = true) (hd : s.due = .accept (.handle p) sub)
      (hi : decodeWord sub.cw = .ok i) (hc : check s (.handle p) sub.ws i = .ok) :
      PortStep s p { s.port p with cmd := some sub.cw, wd := some sub.ws, step := 0, rbuf := [], pst := .wait }
        s.lock s.history
  /-- R105. -/
  | abort (ph : XferPhase) (i : Instr) (xs : List Xfer) (x : Xfer) (hx : Performs s p (.err ph) i xs x) :
      PortStep s p
        { s.port p with pst := .done, rsp := some (response (transportStatus ph) (s.port p).step Result.empty) }
        none (s.history ++ [⟨p, x, .err ph⟩])
  /-- R104, with transactions left. -/
  | again (rs : List Byte) (i : Instr) (xs : List Xfer) (x : Xfer) (hx : Performs s p (.ok rs) i xs x)
      (hn : ((s.port p).step + 1).toNat < xs.length) :
      PortStep s p
        { s.port p with rbuf := (s.port p).rbuf ++ rs, step := (s.port p).step + 1, pst := .wait }
        none (s.history ++ [⟨p, x, .ok rs⟩])
  /-- R104, after the last transaction. -/
  | finish (rs : List Byte) (i : Instr) (xs : List Xfer) (x : Xfer) (r : Result) (hx : Performs s p (.ok rs) i xs x) :
      PortStep s p
        { s.port p with
          rbuf := (s.port p).rbuf ++ rs, step := (s.port p).step + 1, pst := .done,
          rsp := some (response r.status 0 r) }
        none (s.history ++ [⟨p, x, .ok rs⟩])

/-- The step from s to t is a port step of p, and no other port changes. -/
structure Touches (s t : State) (p : PortId) : Prop where
  here : PortStep s p (t.port p) t.lock t.history
  elsewhere : ∀ q, q ≠ p → t.port q = s.port q

/-- The ports, the lock and the history are as they were. -/
structure Untouched (s t : State) : Prop where
  port : ∀ p, t.port p = s.port p
  lock : t.lock = s.lock
  history : t.history = s.history

theorem PortStep.touches {s u : State} {p : PortId} {x : PortState} (h : PortStep s p x u.lock u.history)
    (hu : u.ports = s.ports) : Touches s (u.setPort p x) p where
  here := by simpa using h
  elsewhere q hq := by rw [State.port_setPort_of_ne _ _ hq]; simp [State.port, hu]

theorem raise_latch_handle (s : State) (p : PortId) (sub : Submission) (st : Status) :
    raise (.handle p) st 0 (latch (.handle p) sub s) = (s.consume (.handle p)).setPort p
      { s.port p with
        cmd := some sub.cw, wd := some (latchedLane s.cfg sub.ws), pst := .done,
        rsp := some (response st 0 Result.empty) } := by
  simp [raise, latch, complete_handle_setPort]

theorem raise_latch_untouched (s : State) (sub : Submission) (st : Status) :
    Untouched s (raise .m st 0 (latch .m sub s)) := ⟨fun _ => rfl, rfl, rfl⟩

/-- A submission that is refused completes on its port and does nothing else. -/
theorem raise_latch_cases (s : State) (q : PortRef) (sub : Submission) (st : Status) (hd : s.due = .accept q sub) :
    Untouched s (raise q st 0 (latch q sub s)) ∨ ∃ p, Touches s (raise q st 0 (latch q sub s)) p := by
  cases q with
  | m => exact .inl (raise_latch_untouched s sub st)
  | handle p =>
    rw [raise_latch_handle]
    exact .inr ⟨p, PortStep.touches (.refuse sub st hd) (State.consume_ports s _)⟩

theorem Move.cases {s t : State} (h : Move s t) :
    ((∃ ts, s.turns = .reset :: ts) ∧ t = resetBlock s) ∨ Untouched s t ∨ ∃ p, Touches s t p := by
  cases h with
  | reset ts ht => exact .inl ⟨⟨ts, ht⟩, rfl⟩
  | rest | pass | takeM | acquire | takeBus | run => exact .inr (.inl ⟨fun _ => rfl, rfl, rfl⟩)
  | illegal q sub e hd | refuse q sub i hd => exact .inr (raise_latch_cases s q sub _ hd)
  | grant c p ts ht hl hc hp hw =>
    exact .inr (.inr ⟨p, PortStep.touches (.grant c ts ht hl (present_iff.mp hp) hw) rfl⟩)
  | take ts p r ht hp hd =>
    exact .inr (.inr ⟨p, PortStep.touches (.take ts ht (present_iff.mp hp) hd) rfl⟩)
  | bind p sub a hd hi hc =>
    exact .inr (.inr ⟨p, PortStep.touches (.bind sub a hd hi hc) (State.consume_ports s _)⟩)
  | accept p sub i hb hd hi hc =>
    exact .inr (.inr ⟨p, PortStep.touches (.accept sub i hb hd hi hc) (State.consume_ports s _)⟩)
  | abort p o ph cw i xs x hd hcw hi hxs hx ha ho =>
    subst ho
    exact .inr (.inr ⟨p, PortStep.touches (.abort ph i xs x ⟨hd, ⟨cw, hcw, hi⟩, hxs, hx, ha⟩) rfl⟩)
  | again p o rs cw i xs x hd hcw hi hxs hx ha ho hn =>
    subst ho
    exact .inr (.inr ⟨p, PortStep.touches (.again rs i xs x ⟨hd, ⟨cw, hcw, hi⟩, hxs, hx, ha⟩ hn) rfl⟩)
  | finish p o rs cw i xs x r hd hcw hi hxs hx ha ho =>
    subst ho
    exact .inr (.inr ⟨p, PortStep.touches (.finish rs i xs x r ⟨hd, ⟨cw, hcw, hi⟩, hxs, hx, ha⟩) rfl⟩)

theorem step_cases {s t : State} (h : step s = .next t) :
    ((∃ ts, s.turns = .reset :: ts) ∧ t = resetBlock s) ∨ Untouched s t ∨ ∃ p, Touches s t p :=
  (step_move h).cases

/-- Seen from one port. -/
theorem step_port {s t : State} (h : step s = .next t) (p : PortId) :
    ((∃ ts, s.turns = .reset :: ts) ∧ t = resetBlock s) ∨ t.port p = s.port p ∨ Touches s t p := by
  rcases step_cases h with hr | hu | ⟨q, hq⟩
  · exact .inl hr
  · exact .inr (.inl (hu.port p))
  · by_cases e : p = q
    · exact .inr (.inr (e ▸ hq))
    · exact .inr (.inl (hq.elsewhere p e))

/-! ## What a port step does to each field -/

section
variable {s : State} {p : PortId} {x : PortState} {lock : Option PortId} {history : List BusEvent}

/-- R26. -/
theorem PortStep.pst_cases (h : PortStep s p x lock history) :
    ((s.port p).pst = .idle ∧ (x.pst = .done ∨ x.pst = .wait) ∧ ∃ sub, s.due = .accept (.handle p) sub) ∨
    ((s.port p).pst = .wait ∧ x.pst = .bus ∧ ∃ c ts, s.turns = .arbiter c :: ts) ∨
    ((s.port p).pst = .bus ∧ (x.pst = .wait ∨ x.pst = .done) ∧ ∃ o, s.due = .perform p o) ∨
    ((s.port p).pst = .done ∧ x.pst = .idle ∧ ∃ ts, s.turns = .take (.handle p) :: ts) := by
  cases h with
  | grant c ts ht hl hp hw => exact .inr (.inl ⟨hw, rfl, c, ts, ht⟩)
  | take ts ht hp hd => exact .inr (.inr (.inr ⟨hd, rfl, ts, ht⟩))
  | refuse sub st hd | bind sub a hd => exact .inl ⟨(due_accept_handle hd).2, .inl rfl, sub, hd⟩
  | accept sub i hb hd => exact .inl ⟨(due_accept_handle hd).2, .inr rfl, sub, hd⟩
  | again rs i xs y hx => exact .inr (.inr (.inl ⟨(due_perform_port hx.due).2, .inl rfl, _, hx.due⟩))
  | abort ph i xs y hx | finish rs i xs y r hx =>
    exact .inr (.inr (.inl ⟨(due_perform_port hx.due).2, .inr rfl, _, hx.due⟩))

/-- R25. -/
theorem PortStep.binding_cases (h : PortStep s p x lock history) :
    (x.bound = (s.port p).bound ∧ x.asel = (s.port p).asel) ∨
    ((s.port p).bound = false ∧ ∃ sub a, s.due = .accept (.handle p) sub ∧
      decode s.cfg sub.cw sub.ws = .ok (.bind a) ∧ x.bound = true ∧ x.asel = a) := by
  cases h with
  | bind sub a hd hi hc =>
    obtain ⟨hlegal, -, -, hcmd⟩ := check_eq_ok.mp hc
    exact .inr ⟨checkCommand_bind.mp hcmd, sub, a, hd, decode_eq_ok.mpr ⟨hi, hlegal⟩, rfl, rfl⟩
  | grant | take | refuse | accept | abort | again | finish => exact .inl ⟨rfl, rfl⟩

/-- R28, R29. -/
theorem PortStep.buffer_cases (h : PortStep s p x lock history) :
    (x.step = (s.port p).step ∧ x.rbuf = (s.port p).rbuf) ∨
    (x.step = 0 ∧ x.rbuf = [] ∧ x.pst = .wait ∧ ∃ sub i, s.due = .accept (.handle p) sub ∧
      decode s.cfg sub.cw sub.ws = .ok i ∧ i.isBus = true) ∨
    (∃ rs, s.due = .perform p (.ok rs) ∧ x.step = (s.port p).step + 1 ∧ x.rbuf = (s.port p).rbuf ++ rs) := by
  cases h with
  | accept sub i hb hd hi hc =>
    exact .inr (.inl ⟨rfl, rfl, rfl, sub, i, hd, decode_eq_ok.mpr ⟨hi, (check_eq_ok.mp hc).1⟩, hb⟩)
  | again rs i xs y hx | finish rs i xs y r hx => exact .inr (.inr ⟨rs, hx.due, rfl, rfl⟩)
  | grant | take | refuse | bind | abort => exact .inl ⟨rfl, rfl⟩

/-- R24, R55, R117. -/
theorem PortStep.lock_cases (h : PortStep s p x lock history) :
    (lock = s.lock ∧ history = s.history ∧ (s.port p).pst ≠ .bus ∧ x.pst ≠ .bus) ∨
    (s.lock = none ∧ lock = some p ∧ history = s.history ∧ (s.port p).pst = .wait ∧ x.pst = .bus ∧
      ∃ c ts, s.turns = .arbiter c :: ts) ∨
    (lock = none ∧ (s.port p).pst = .bus ∧ x.pst ≠ .bus ∧
      ∃ o y, s.due = .perform p o ∧ history = s.history ++ [⟨p, y, o⟩]) := by
  cases h with
  | grant c ts ht hl hp hw => exact .inr (.inl ⟨hl, rfl, rfl, hw, rfl, c, ts, ht⟩)
  | take ts ht hp hd => exact .inl ⟨rfl, rfl, by simp [hd], by simp⟩
  | refuse sub st hd | bind sub a hd | accept sub i hb hd =>
    exact .inl ⟨rfl, rfl, by simp [(due_accept_handle hd).2], by simp⟩
  | abort ph i xs y hx | again rs i xs y hx | finish rs i xs y r hx =>
    exact .inr (.inr ⟨rfl, (due_perform_port hx.due).2, by simp, _, y, hx.due, rfl⟩)

end

/-! ## What a step does to the global fields -/

/-- R21 to R23: but for a reset, the three global fields change only when ACQUIRE, TAKE_BUS or RUN passes its checks on M. -/
theorem Move.globals_cases {s t : State} (h : Move s t) (hr : ∀ ts, s.turns ≠ .reset :: ts) :
    (t.phase = s.phase ∧ t.busOwned = s.busOwned ∧ t.nextHandle = s.nextHandle) ∨
    ∃ sub i, s.due = .accept .m sub ∧ decode s.cfg sub.cw sub.ws = .ok i ∧ checkCommand s .m i = .ok ∧
      ((i = .acquire ∧ t.phase = s.phase ∧ t.busOwned = s.busOwned ∧ t.nextHandle = s.nextHandle + 1) ∨
       (i = .takeBus ∧ t.phase = s.phase ∧ t.busOwned = true ∧ t.nextHandle = s.nextHandle) ∨
       (i = .run ∧ t.phase = .run ∧ t.busOwned = s.busOwned ∧ t.nextHandle = s.nextHandle)) := by
  cases h with
  | reset ts ht => exact absurd ht (hr ts)
  | acquire sub hd hi hc =>
    obtain ⟨hlegal, -, -, hcmd⟩ := check_eq_ok.mp hc
    exact .inr ⟨sub, _, hd, decode_eq_ok.mpr ⟨hi, hlegal⟩, hcmd, .inl ⟨rfl, rfl, rfl, rfl⟩⟩
  | takeBus sub hd hi hc =>
    obtain ⟨hlegal, -, -, hcmd⟩ := check_eq_ok.mp hc
    exact .inr ⟨sub, _, hd, decode_eq_ok.mpr ⟨hi, hlegal⟩, hcmd, .inr (.inl ⟨rfl, rfl, rfl, rfl⟩)⟩
  | run sub hd hi hc =>
    obtain ⟨hlegal, -, -, hcmd⟩ := check_eq_ok.mp hc
    exact .inr ⟨sub, _, hd, decode_eq_ok.mpr ⟨hi, hlegal⟩, hcmd, .inr (.inr ⟨rfl, rfl, rfl, rfl⟩)⟩
  | rest | pass | grant | takeM | take | illegal | refuse | bind | accept | abort | again | finish =>
    exact .inl (by simp)

theorem Move.cfg_eq {s t : State} (h : Move s t) : t.cfg = s.cfg := by
  cases h <;> simp

/-! ## The statements about single steps -/

/-- Settles O48: no move writes the configuration. -/
theorem configurationIsFixed : Obligations.ConfigurationIsFixed := by
  unfold Obligations.ConfigurationIsFixed
  exact fun s t h => (step_move h).cfg_eq

/-- Settles O38: every field of the reset state is the listed value. -/
theorem resetValuesAreTheSpecs : Obligations.ResetValuesAreTheSpecs := by
  unfold Obligations.ResetValuesAreTheSpecs
  exact fun c => ⟨rfl, rfl, rfl, rfl, rfl, rfl, State.resetWith_port c⟩

/-- Settles O43, by the cases of a port step. -/
theorem portsMoveAsSpecified : Obligations.PortsMoveAsSpecified := by
  unfold Obligations.PortsMoveAsSpecified
  intro s t p h
  rcases step_port h p with ⟨hr, rfl⟩ | he | hp
  · exact .inl ⟨hr, by simp [PortState.reset]⟩
  · exact .inr (.inl (congrArg PortState.pst he))
  · exact .inr (.inr hp.here.pst_cases)

/-- Settles O45, by the cases of the global fields. -/
theorem globalFieldsHaveOneWriter : Obligations.GlobalFieldsHaveOneWriter := by
  unfold Obligations.GlobalFieldsHaveOneWriter
  intro s t h hr
  rcases (step_move h).globals_cases hr with ⟨h1, h2, h3⟩ | ⟨sub, i, hd, hi, hc, hw⟩
  · exact ⟨absurd h1, absurd h2, absurd h3⟩
  · rcases hw with ⟨rfl, h1, h2, h3⟩ | ⟨rfl, h1, h2, h3⟩ | ⟨rfl, h1, h2, h3⟩
    · exact ⟨absurd h1, absurd h2, fun _ => ⟨h3, sub, hd, hi⟩⟩
    · exact ⟨absurd h1, fun _ => ⟨checkCommand_takeBus.mp hc, h2, sub, hd, hi⟩, absurd h3⟩
    · exact ⟨fun _ => ⟨checkCommand_run.mp hc, h1, sub, hd, hi⟩, absurd h2, absurd h3⟩

/-- Settles O46, by the cases of a port step: only BIND on an unbound port writes BOUND and ASEL. -/
theorem bindingIsImmutable : Obligations.BindingIsImmutable := by
  unfold Obligations.BindingIsImmutable
  intro s t p h hr
  have hcases : (t.port p).bound = (s.port p).bound ∧ (t.port p).asel = (s.port p).asel ∨
      ((s.port p).bound = false ∧ ∃ sub a, s.due = .accept (.handle p) sub ∧
        decode s.cfg sub.cw sub.ws = .ok (.bind a) ∧ (t.port p).bound = true ∧ (t.port p).asel = a) := by
    rcases step_port h p with ⟨⟨ts, ht⟩, -⟩ | he | hp
    · exact absurd ht (hr ts)
    · exact .inl (by simp [he])
    · exact hp.here.binding_cases
  rcases hcases with ⟨hb, ha⟩ | ⟨hf, hbind⟩
  · exact ⟨fun h1 => ⟨hb.trans h1, ha⟩, fun h2 => (h2.elim (absurd hb) (absurd ha))⟩
  · exact ⟨fun h1 => absurd (hf.symm.trans h1) (by decide), fun _ => hbind⟩

/-- Settles O47, by the cases of a port step. -/
theorem stepAndReadBufferMoveAsSpecified : Obligations.StepAndReadBufferMoveAsSpecified := by
  unfold Obligations.StepAndReadBufferMoveAsSpecified
  intro s t p h hr
  rcases step_port h p with ⟨⟨ts, ht⟩, -⟩ | he | hp
  · exact absurd ht (hr ts)
  · exact .inl (by simp [he])
  · exact hp.here.buffer_cases

/-- Settles O49, by the cases of the touched port's step. -/
theorem lockIsHeldForOneTransaction : Obligations.LockIsHeldForOneTransaction := by
  unfold Obligations.LockIsHeldForOneTransaction
  intro s t h hr
  rcases step_cases h with ⟨⟨ts, ht⟩, -⟩ | hu | ⟨p, hp⟩
  · exact absurd ht (hr ts)
  · exact .inl ⟨hu.lock, hu.history⟩
  rcases hp.here.lock_cases with ⟨hl, hh, -, -⟩ | ⟨hl, hl', hh, hw, hb, c, ts, ht⟩ | ⟨hl, -, hb, o, x, hd, hh⟩
  · exact .inl ⟨hl, hh⟩
  · exact .inr (.inl ⟨hl, hh, p, c, ts, ht, hw, hl', hb⟩)
  · exact .inr (.inr ⟨hl, p, o, _, hd, hh, rfl, hb⟩)

/-- NEXT_HANDLE counts up without wrapping while it is below H (R23). -/
theorem nextHandle_succ_toNat {n : BitVec 5} {h : Nat} (hn : n.toNat < h) (hh : h ≤ 16) :
    (n + 1).toNat = n.toNat + 1 := by
  rw [BitVec.toNat_add]
  simp
  omega

/-- What ACQUIRE, TAKE_BUS and RUN keep: the global fields only grow, and NEXT_HANDLE stays within H. -/
theorem globals_mono {s t : State} (hi : Inv s) (h : step s = .next t) (hr : ∀ ts, s.turns ≠ .reset :: ts) :
    (s.busOwned = true → t.busOwned = true) ∧ (s.phase = .run → t.phase = .run) ∧
    s.nextHandle.toNat ≤ t.nextHandle.toNat ∧ t.nextHandle.toNat ≤ s.cfg.h := by
  have hn := hi.handlesWithinH
  rcases (step_move h).globals_cases hr with ⟨h1, h2, h3⟩ | ⟨sub, i, -, -, hc, hw⟩
  · simp [h1, h2, h3, hn]
  · rcases hw with ⟨rfl, h1, h2, h3⟩ | ⟨rfl, h1, h2, h3⟩ | ⟨rfl, h1, h2, h3⟩
    · obtain ⟨-, hne⟩ := checkCommand_acquire.mp hc
      obtain ⟨⟨-, hh⟩, -⟩ := hi.cfgWf
      have := nextHandle_succ_toNat (n := s.nextHandle) (h := s.cfg.h) (by omega) hh
      simp only [h1, h2, h3, this, imp_self, true_and]
      omega
    · simp [h1, h2, h3, hn]
    · simp [h1, h2, h3, hn]

/-- Settles O44: the global fields by their cases, BOUND because a binding is immutable. -/
theorem globalFieldsNeverDecrease : Obligations.GlobalFieldsNeverDecrease := by
  unfold Obligations.GlobalFieldsNeverDecrease
  intro s t hi h hr
  obtain ⟨hown, hphase, hle, -⟩ := globals_mono hi h hr
  have hbind := bindingIsImmutable
  unfold Obligations.BindingIsImmutable at hbind
  exact ⟨hown, hphase, hle, fun p hb => ((hbind s t p h hr).1 hb).1⟩

end Sys2Proof.Machine
end

section
/-! # The invariant

`Inv` splits into what it says of one port (`PortOk`) and what it says of the lock, M and the arbiter. Each half is kept by the
case lemmas about port steps and global fields; the two are put together again by `Inv.of_portOk`. -/

namespace Sys2Proof.Machine

/-! ## The invariant of one port -/

/-- A port in state y has the legal command i latched, and its plan is xs. -/
def Carries (c : Config) (y : PortState) (i : Instr) (xs : List Xfer) : Prop :=
  ∃ cw ws, y.cmd = some cw ∧ y.wd = some ws ∧ decode c cw ws = .ok i ∧ planOf c y i = some xs

theorem latched_iff {s : State} {p : PortId} {i : Instr} {xs : List Xfer} :
    Latched s p i xs ↔ Carries s.cfg (s.port p) i xs := Iff.rfl

/-- Carrying a command reads CMD, WD and ASEL alone. -/
theorem Carries.congr {c : Config} {y z : PortState} {i : Instr} {xs : List Xfer} (h : Carries c y i xs)
    (hcmd : z.cmd = y.cmd) (hwd : z.wd = y.wd) (hasel : z.asel = y.asel) : Carries c z i xs := by
  obtain ⟨cw, ws, hcw, hws, hdec, hxs⟩ := h
  exact ⟨cw, ws, hcmd.trans hcw, hwd.trans hws, hdec, (planOf_congr hwd hasel).trans hxs⟩

/-- What Inv s says of port p, if its state is y. -/
structure PortOk (s : State) (p : PortId) (y : PortState) : Prop where
  ready : y.pending → s.busOwned = true ∧ p.val < s.nextHandle.toNat
  plan : y.pending → ∃ i xs, Carries s.cfg y i xs ∧ i.isBus = true ∧ (i.isDriver = true → y.bound = true) ∧
    y.step.toNat < xs.length ∧ y.rbuf.length = bytesRead xs y.step.toNat
  cmd : (y.cmd.isSome = true ↔ y.pst ≠ .idle) ∧ (y.wd.isSome = true ↔ y.pst ≠ .idle)
  wd : ∀ ws ∈ y.wd, ws.length ≤ s.cfg.wmax
  rsp : y.rsp.isSome = true ↔ y.pst = .done
  rbuf : y.rbuf.length ≤ max s.cfg.rmax 7
  absent : s.cfg.h ≤ p.val → y = PortState.reset

theorem Inv.portOk {s : State} (h : Inv s) (p : PortId) : PortOk s p (s.port p) where
  ready := h.pendingReady p
  plan := h.pendingPlan p
  cmd := h.cmdWhileBusy p
  wd := h.wdWithinBounds p
  rsp := h.rspWhileDone p
  rbuf := h.rbufWithinBounds p
  absent := h.absentPorts p

theorem Inv.of_portOk {s : State} (hcfg : s.cfg.wf) (hlock : ∀ p, s.lock = some p ↔ (s.port p).pst = .bus)
    (hhandles : s.nextHandle.toNat ≤ s.cfg.h) (hports : ∀ p, PortOk s p (s.port p))
    (hm : s.mrsp.isSome = true ↔ s.mst = .done) (hlast : s.arbLast.val < s.cfg.h) : Inv s where
  cfgWf := hcfg
  lockIsBus := hlock
  pendingReady p := (hports p).ready
  handlesWithinH := hhandles
  pendingPlan p := (hports p).plan
  cmdWhileBusy p := (hports p).cmd
  wdWithinBounds p := (hports p).wd
  rspWhileDone p := (hports p).rsp
  mrspWhileDone := hm
  rbufWithinBounds p := (hports p).rbuf
  absentPorts p := (hports p).absent
  lastIsPort := hlast

/-- A port's part of the invariant outlives every growth of the global fields. -/
theorem PortOk.mono {s t : State} {p : PortId} {y : PortState} (h : PortOk s p y) (hc : t.cfg = s.cfg)
    (hown : s.busOwned = true → t.busOwned = true) (hn : s.nextHandle.toNat ≤ t.nextHandle.toNat) : PortOk t p y where
  ready hy := ⟨hown (h.ready hy).1, (h.ready hy).2.trans_le hn⟩
  plan := hc ▸ h.plan
  cmd := h.cmd
  wd := hc ▸ h.wd
  rsp := h.rsp
  rbuf := hc ▸ h.rbuf
  absent := hc ▸ h.absent

theorem portOk_reset (s : State) (p : PortId) : PortOk s p PortState.reset where
  ready hy := by simp [PortState.pending, PortState.reset] at hy
  plan hy := by simp [PortState.pending, PortState.reset] at hy
  cmd := by simp [PortState.reset]
  wd := by simp [PortState.reset]
  rsp := by simp [PortState.reset]
  rbuf := by simp [PortState.reset]
  absent _ := rfl

/-! ## Plans -/

theorem bytesRead_le_whole (xs : List Xfer) (n : Nat) : bytesRead xs n ≤ bytesRead xs xs.length := by
  simpa [bytesRead] using ((List.take_sublist n xs).map Xfer.m).sum_le_sum (by simp)

/-- R29: a legal command's plan reads at most RMAX or seven bytes. -/
theorem bytesRead_le_max {c : Config} {y : PortState} {i : Instr} {xs : List Xfer} {ws : List Byte}
    (hl : i.legal c ws = true) (hx : planOf c y i = some xs) (n : Nat) : bytesRead xs n ≤ max c.rmax 7 := by
  refine (bytesRead_le_whole xs n).trans ?_
  cases i with
  | transact a wlen rlen =>
    obtain ⟨lane, -, rfl⟩ : ∃ lane, y.wd = some lane ∧ [⟨a, lane, rlen.toNat⟩] = xs := by
      simp only [planOf, planTransact] at hx
      split at hx
      · exact ⟨_, ‹_›, Option.some.inj hx⟩
      · cases hx
    simp only [Instr.legal, Instr.wf, Bool.and_eq_true, decide_eq_true_eq] at hl
    obtain ⟨⟨⟨-, hr⟩, -⟩, -⟩ := hl
    simpa [bytesRead] using .inl hr
  | acquire | takeBus | run | bind => cases hx; simp [bytesRead]
  | readReg | writeReg | readId | readRange | readSample =>
    cases hx; simp [bytesRead, memRead, memWrite, Config.sampleRegs]

/-- The latched word decides the command, and so its plan. -/
theorem Performs.eq_of_latched {s : State} {p : PortId} {o : ChanOutcome} {i j : Instr} {xs ys : List Xfer} {x : Xfer}
    (hx : Performs s p o i xs x) (h : Latched s p j ys) : j = i ∧ ys = xs := by
  obtain ⟨cw, hcw, hi⟩ := hx.latched
  obtain ⟨cw', ws, hcw', -, hj, hys⟩ := h
  obtain rfl : cw' = cw := Option.some.inj (hcw'.symm.trans hcw)
  obtain rfl : j = i := Except.ok.inj ((decode_eq_ok.mp hj).1.symm.trans hi)
  exact ⟨rfl, Option.some.inj (hys.symm.trans hx.plan)⟩

theorem Performs.pending {s : State} {p : PortId} {o : ChanOutcome} {i : Instr} {xs : List Xfer} {x : Xfer}
    (hx : Performs s p o i xs x) : (s.port p).pending :=
  .inr (due_perform_port hx.due).2

/-- R40, item 5, at a transaction. -/
theorem Performs.planned {s : State} {p : PortId} {o : ChanOutcome} {i : Instr} {xs : List Xfer} {x : Xfer}
    (hx : Performs s p o i xs x) (hi : Inv s) : Carries s.cfg (s.port p) i xs ∧ i.isBus = true ∧
      (i.isDriver = true → (s.port p).bound = true) ∧ (s.port p).step.toNat < xs.length ∧
      (s.port p).rbuf.length = bytesRead xs (s.port p).step.toNat := by
  obtain ⟨j, ys, hl, h⟩ := hi.pendingPlan p hx.pending
  obtain ⟨rfl, rfl⟩ := hx.eq_of_latched hl
  exact ⟨latched_iff.mp hl, h⟩

theorem admits_ok {x : Xfer} {rs : List Byte} : x.admits (.ok rs) = true ↔ rs.length = x.m := by
  simp [Xfer.admits]

/-- R29: after an Ok transaction RBUF holds the bytes of one more transaction. -/
theorem Performs.rbuf_length {s : State} {p : PortId} {rs : List Byte} {i : Instr} {xs : List Xfer} {x : Xfer}
    (hx : Performs s p (.ok rs) i xs x) (hi : Inv s) :
    ((s.port p).rbuf ++ rs).length = bytesRead xs ((s.port p).step.toNat + 1) := by
  obtain ⟨-, -, -, -, hb⟩ := hx.planned hi
  rw [List.length_append, hb, admits_ok.mp hx.admitted, bytesRead_succ hx.atStep]

theorem Performs.rbuf_bound {s : State} {p : PortId} {rs : List Byte} {i : Instr} {xs : List Xfer} {x : Xfer}
    (hx : Performs s p (.ok rs) i xs x) (hi : Inv s) : ((s.port p).rbuf ++ rs).length ≤ max s.cfg.rmax 7 := by
  obtain ⟨⟨cw, ws, -, -, hdec, -⟩, -⟩ := hx.planned hi
  exact hx.rbuf_length hi ▸ bytesRead_le_max (decode_eq_ok.mp hdec).2 hx.plan _

/-! ## A port step keeps the port's part -/

/-- An idle port that answers a submission at once. -/
theorem PortOk.answered {s : State} {p : PortId} {y : PortState} (h : PortOk s p y) (hp : p.val < s.cfg.h) (cw : Word)
    {ws : List Byte} (hw : ws.length ≤ s.cfg.wmax) (b : Bool) (a : BitVec 1) (r : Response) :
    PortOk s p { y with cmd := some cw, wd := some ws, bound := b, asel := a, pst := .done, rsp := some r } where
  ready hy := by simp [PortState.pending] at hy
  plan hy := by simp [PortState.pending] at hy
  cmd := by simp
  wd := by simpa using hw
  rsp := by simp
  rbuf := h.rbuf
  absent hh := absurd hp (by omega)

/-- A port on the bus whose command completes. -/
theorem PortOk.completed {s : State} {p : PortId} {y : PortState} (h : PortOk s p y) (hp : p.val < s.cfg.h)
    (hb : y.pst = .bus) (n : BitVec 3) {rb : List Byte} (hrb : rb.length ≤ max s.cfg.rmax 7) (r : Response) :
    PortOk s p { y with rbuf := rb, step := n, pst := .done, rsp := some r } where
  ready hy := by simp [PortState.pending] at hy
  plan hy := by simp [PortState.pending] at hy
  cmd := by simpa [hb] using h.cmd
  wd := h.wd
  rsp := by simp
  rbuf := hrb
  absent hh := absurd hp (by omega)

theorem PortOk.granted {s : State} {p : PortId} {y : PortState} (h : PortOk s p y) (hp : p.val < s.cfg.h)
    (hw : y.pst = .wait) : PortOk s p { y with pst := .bus } where
  ready _ := h.ready (.inl hw)
  plan _ := by
    obtain ⟨i, xs, hc, hrest⟩ := h.plan (.inl hw)
    exact ⟨i, xs, hc.congr rfl rfl rfl, hrest⟩
  cmd := by simpa [hw] using h.cmd
  wd := h.wd
  rsp := by simpa [hw] using h.rsp
  rbuf := h.rbuf
  absent hh := absurd hp (by omega)

theorem PortOk.taken {s : State} {p : PortId} {y : PortState} (h : PortOk s p y) (hp : p.val < s.cfg.h) :
    PortOk s p { y with pst := .idle, cmd := none, wd := none, rsp := none } where
  ready hy := by simp [PortState.pending] at hy
  plan hy := by simp [PortState.pending] at hy
  cmd := by simp
  wd := by simp
  rsp := by simp
  rbuf := h.rbuf
  absent hh := absurd hp (by omega)

/-- The plan of a bus command that passed its checks starts at 0. -/
theorem carries_accepted {s : State} {p : PortId} {sub : Submission} {i : Instr} (hb : i.isBus = true)
    (hi : decodeWord sub.cw = .ok i) (hc : check s (.handle p) sub.ws i = .ok) {y : PortState}
    (hcmd : y.cmd = some sub.cw) (hwd : y.wd = some sub.ws) : ∃ xs, Carries s.cfg y i xs ∧ 0 < xs.length := by
  obtain ⟨xs, hxs, hpos, -⟩ := planOf_bus hb hwd
  exact ⟨xs, ⟨sub.cw, sub.ws, hcmd, hwd, decode_eq_ok.mpr ⟨hi, (check_eq_ok.mp hc).1⟩, hxs⟩, hpos⟩

theorem PortOk.accepted {s : State} {p : PortId} {sub : Submission} {i : Instr} (h : PortOk s p (s.port p))
    (hd : s.due = .accept (.handle p) sub) (hb : i.isBus = true) (hi : decodeWord sub.cw = .ok i)
    (hc : check s (.handle p) sub.ws i = .ok) :
    PortOk s p { s.port p with cmd := some sub.cw, wd := some sub.ws, step := 0, rbuf := [], pst := .wait } := by
  obtain ⟨hp, hidle⟩ := due_accept_handle hd
  obtain ⟨hlegal, -, hacq, hcmd⟩ := check_eq_ok.mp hc
  obtain ⟨hbound, hown⟩ := (checkCommand_bus hb).mp hcmd
  exact {
    ready := fun _ => ⟨hown, unacquired_handle.mp hacq⟩
    plan := fun _ => by
      obtain ⟨xs, hxs, hpos⟩ := carries_accepted hb hi hc
        (y := { s.port p with cmd := some sub.cw, wd := some sub.ws, step := 0, rbuf := [], pst := .wait }) rfl rfl
      exact ⟨i, xs, hxs, hb, hbound, hpos, by simp [bytesRead]⟩
    cmd := by simp
    wd := by simpa using legal_lane_length_le hlegal
    rsp := by simpa [hidle] using h.rsp
    rbuf := by simp
    absent := fun hh => absurd hp (by omega) }

/-- STEP after an Ok transaction. -/
theorem Performs.step_succ {s : State} {p : PortId} {o : ChanOutcome} {i : Instr} {xs : List Xfer} {x : Xfer}
    (hx : Performs s p o i xs x) : ((s.port p).step + 1).toNat = (s.port p).step.toNat + 1 :=
  Machine.step_succ (List.getElem?_eq_some_iff.mp hx.atStep).1 (planOf_length_le hx.plan)

theorem Performs.portOk_again {s : State} {p : PortId} {rs : List Byte} {i : Instr} {xs : List Xfer} {x : Xfer}
    (hx : Performs s p (.ok rs) i xs x) (hi : Inv s) (hn : ((s.port p).step + 1).toNat < xs.length) :
    PortOk s p { s.port p with rbuf := (s.port p).rbuf ++ rs, step := (s.port p).step + 1, pst := .wait } := by
  obtain ⟨hp, hb⟩ := due_perform_port hx.due
  obtain ⟨hc, hbus, hbound, -⟩ := hx.planned hi
  exact {
    ready := fun _ => hi.pendingReady p hx.pending
    plan := fun _ => ⟨i, xs, hc.congr rfl rfl rfl, hbus, hbound, hn, by
      rw [hx.step_succ]; exact hx.rbuf_length hi⟩
    cmd := by simpa [hb] using hi.cmdWhileBusy p
    wd := hi.wdWithinBounds p
    rsp := by simpa [hb] using hi.rspWhileDone p
    rbuf := hx.rbuf_bound hi
    absent := fun hh => absurd hp (by omega) }

theorem PortStep.portOk {s : State} {p : PortId} {x : PortState} {lock : Option PortId} {history : List BusEvent}
    (h : PortStep s p x lock history) (hi : Inv s) : PortOk s p x := by
  have hok := hi.portOk p
  cases h with
  | grant c ts ht hl hp hw => exact hok.granted hp hw
  | take ts ht hp hd => exact hok.taken hp
  | refuse sub st hd =>
    exact hok.answered (due_accept_handle hd).1 sub.cw (latchedLane_length_le _ _) _ _ _
  | bind sub a hd hdec hc =>
    exact hok.answered (due_accept_handle hd).1 sub.cw (legal_lane_length_le (check_eq_ok.mp hc).1) _ _ _
  | accept sub i hb hd hdec hc => exact hok.accepted hd hb hdec hc
  | abort ph i xs y hx =>
    obtain ⟨hp, hb⟩ := due_perform_port hx.due
    exact hok.completed hp hb _ hok.rbuf _
  | again rs i xs y hx hn => exact hx.portOk_again hi hn
  | finish rs i xs y r hx =>
    obtain ⟨hp, hb⟩ := due_perform_port hx.due
    exact hok.completed hp hb _ (hx.rbuf_bound hi) _

/-! ## The lock, M and the arbiter -/

/-- R40, item 1, over a step that touches one port. -/
theorem Touches.lockIsBus {s t : State} {p : PortId} (h : Touches s t p)
    (hs : ∀ q, s.lock = some q ↔ (s.port q).pst = .bus) (q : PortId) : t.lock = some q ↔ (t.port q).pst = .bus := by
  have hq := hs q
  by_cases e : q = p
  · subst e
    rcases h.here.lock_cases with ⟨hl, -, hb, hb'⟩ | ⟨-, hl, -, -, hb, -⟩ | ⟨hl, -, hb, -⟩ <;> simp_all
  · have hp := hs p
    rw [h.elsewhere q e]
    rcases h.here.lock_cases with ⟨hl, -⟩ | ⟨hl, hl', -⟩ | ⟨hl, hb, -⟩
    · rw [hl, hq]
    · simp [hl', ← hq, hl, Ne.symm e]
    · simp [hl, ← hq, hp.mpr hb, Ne.symm e]

theorem Move.mrspWhileDone {s t : State} (h : Move s t) (hs : s.mrsp.isSome = true ↔ s.mst = .done) :
    t.mrsp.isSome = true ↔ t.mst = .done := by
  cases h with
  | illegal q | refuse q =>
    cases q with
    | m => simp [raise, complete]
    | handle p => simpa [raise, complete] using hs
  | acquire | takeBus | run => simp [complete]
  | reset | takeM => simp
  | rest => exact hs
  | abort => simpa [raise, complete] using hs
  | pass | grant | take | bind | accept | again | finish => simpa using hs

theorem Move.lastIsPort {s t : State} (h : Move s t) (hh : 1 ≤ s.cfg.h ∧ s.cfg.h ≤ 16) (hs : s.arbLast.val < s.cfg.h) :
    t.arbLast.val < s.cfg.h := by
  cases h with
  | reset => simp; omega
  | grant c p ts ht hl hc hp => exact present_iff.mp hp
  | rest | pass | takeM | take | illegal | refuse | acquire | takeBus | run | bind | accept | abort | again | finish =>
    simpa using hs

/-! ## The statements about the invariant -/

/-- Settles O40: at reset every port is idle and empty, and the lock is free. -/
theorem resetMeetsTheInvariant : Obligations.ResetMeetsTheInvariant := by
  unfold Obligations.ResetMeetsTheInvariant
  intro c hc
  have hh : 1 ≤ c.h ∧ c.h ≤ 16 := hc.1
  refine Inv.of_portOk hc (fun p => ?_) (Nat.zero_le _) (fun p => ?_) (by simp [State.resetWith]) ?_
  · rw [State.resetWith_port]; simp [State.resetWith, PortState.reset]
  · rw [State.resetWith_port]; exact portOk_reset _ p
  · simp [State.resetWith]; omega

/-- A reset meets the invariant: what it keeps, the invariant does not read. -/
theorem inv_resetBlock {s : State} (hc : s.cfg.wf) : Inv (resetBlock s) := by
  have h := resetMeetsTheInvariant
  unfold Obligations.ResetMeetsTheInvariant at h
  have h := h s.cfg hc
  exact Inv.of_portOk h.cfgWf h.lockIsBus h.handlesWithinH (fun p => (h.portOk p).mono rfl id le_rfl) h.mrspWhileDone
    h.lastIsPort

/-- Settles O41: port by port, and the lock, M and the arbiter apart. -/
theorem everyStepKeepsTheInvariant : Obligations.EveryStepKeepsTheInvariant := by
  unfold Obligations.EveryStepKeepsTheInvariant
  intro s t hi h
  by_cases hr : ∃ ts, s.turns = .reset :: ts
  · obtain ⟨ts, ht⟩ := hr
    obtain rfl : resetBlock s = t := by simpa [step, ht] using h
    exact inv_resetBlock hi.cfgWf
  have hr : ∀ ts, s.turns ≠ .reset :: ts := fun ts ht => hr ⟨ts, ht⟩
  have hm := step_move h
  have hc := hm.cfg_eq
  obtain ⟨hown, -, hle, hh⟩ := globals_mono hi h hr
  have hparts : (∀ p, t.lock = some p ↔ (t.port p).pst = .bus) ∧ ∀ p, PortOk s p (t.port p) := by
    rcases step_cases h with ⟨⟨ts, ht⟩, -⟩ | hu | ⟨q, hq⟩
    · exact absurd ht (hr ts)
    · exact ⟨fun p => by rw [hu.lock, hu.port]; exact hi.lockIsBus p, fun p => hu.port p ▸ hi.portOk p⟩
    · refine ⟨hq.lockIsBus hi.lockIsBus, fun p => ?_⟩
      by_cases e : p = q
      · exact e ▸ hq.here.portOk hi
      · exact hq.elsewhere p e ▸ hi.portOk p
  obtain ⟨hlock, hports⟩ := hparts
  exact Inv.of_portOk (hc ▸ hi.cfgWf) hlock (hc ▸ hh) (fun p => (hports p).mono hc hown hle)
    (hm.mrspWhileDone hi.mrspWhileDone) (hc ▸ hm.lastIsPort hi.cfgWf.1 hi.lastIsPort)

end Sys2Proof.Machine
end

section
/-! # From a state that meets the invariant no step stops -/

namespace Sys2Proof.Machine

/-! ## Taking a response -/

theorem take_next {s : State} (hi : Inv s) (q : PortRef) : ∃ t, take q s = .next t := by
  cases q with
  | m =>
    by_cases hd : s.mst = .done
    · obtain ⟨r, hr⟩ := Option.isSome_iff_exists.mp (hi.mrspWhileDone.mpr hd)
      simp [take, hd, hr]
    · simp [take, hd]
  | handle p =>
    by_cases hd : (s.port p).pst = .done
    · obtain ⟨r, hr⟩ := Option.isSome_iff_exists.mp ((hi.rspWhileDone p).mpr hd)
      by_cases hp : s.present p = true <;> simp [take, hd, hr, hp]
    · simp [take, hd]

/-! ## Accepting a command -/

theorem runImmediate_accept_next {s : State} {q : PortRef} {sub : Submission} (hd : s.due = .accept q sub) (i : Instr)
    (effect : PortRef → State → State × Result) : ∃ t, runImmediate i effect s = .next t := by
  by_cases hc : check s q sub.ws i = .ok <;> simp [runImmediate, hd, hc]

theorem runBus_accept_next {s : State} {q : PortRef} {sub : Submission} (hd : s.due = .accept q sub) (i : Instr)
    (plan : Config → PortState → Option (List Xfer)) (result : Config → List Byte → Option Result) :
    ∃ t, runBus i plan result s = .next t := by
  by_cases hc : check s q sub.ws i = .ok <;> simp [runBus, hd, hc]

/-- No check and no effect of an acceptance reads a field that may hold no value. -/
theorem exec_accept_next {s : State} {q : PortRef} {sub : Submission} (hd : s.due = .accept q sub) (i : Instr) :
    ∃ t, exec i s = .next t := by
  by_cases hb : i.isBus = true
  · rw [exec_bus hb]; exact runBus_accept_next hd i _ _
  · cases i with
    | acquire => exact runImmediate_accept_next hd .acquire acquireEffect
    | takeBus => exact runImmediate_accept_next hd .takeBus takeBusEffect
    | run => exact runImmediate_accept_next hd .run runEffect
    | bind a => exact runImmediate_accept_next hd (.bind a) (bindEffect a)
    | transact | readReg | writeReg | readId | readRange | readSample => exact absurd rfl hb

/-! ## Performing a transaction -/

/-- A perform step stops only for want of a plan, of a transaction at STEP, or of a result at the end of the plan. -/
theorem perform_next {s : State} {p : PortId} {xs : List Xfer} {x : Xfer} {result : List Byte → Option Result}
    {o : ChanOutcome} (hx : xs[(s.port p).step.toNat]? = some x)
    (hr : ∀ rs, o = .ok rs → x.admits o = true → ¬ ((s.port p).step + 1).toNat < xs.length →
      ∃ r, result ((s.port p).rbuf ++ rs) = some r) :
    ∃ t, perform (some xs) result p o s = .next t := by
  cases ha : x.admits o with
  | false => simp [perform, hx, ha]
  | true =>
    cases o with
    | err ph => exact ⟨_, perform_err hx ha⟩
    | ok rs =>
      rw [perform_ok hx (admits_ok.mp ha)]
      by_cases hn : ((s.port p).step + 1).toNat < xs.length
      · exact ⟨_, continueAfterOk_again (s := s.performed p x (.ok rs)) hn⟩
      · obtain ⟨r, hr⟩ := hr rs rfl ha hn
        exact ⟨_, continueAfterOk_finish (s := s.performed p x (.ok rs)) hn hr⟩

/-- A port on the bus has its command latched, and a step that gives its channel an answer runs that command. -/
theorem runDue_perform_next {s : State} (hi : Inv s) {p : PortId} {o : ChanOutcome} (hd : s.due = .perform p o) :
    ∃ t, runDue s = .next t := by
  obtain ⟨i, xs, ⟨cw, ws, hcw, -, hdec, hxs⟩, hb, -, hlt, -⟩ := hi.pendingPlan p (.inr (due_perform_port hd).2)
  have hdw := (decode_eq_ok.mp hdec).1
  have hx := List.getElem?_eq_getElem hlt
  have hrun : runDue s = perform (some xs) (fun rb => resultOf s.cfg rb i) p o s := by
    simp [runDue, fetch, hd, hcw, hdw, exec_bus hb, runBus, hxs]
  rw [hrun]
  refine perform_next hx fun rs ho ha hn => ?_
  have hperf : Performs s p (.ok rs) i xs _ := ⟨ho ▸ hd, ⟨cw, hcw, hdw⟩, hxs, hx, ho ▸ ha⟩
  have hlast : (s.port p).step.toNat + 1 = xs.length := by rw [hperf.step_succ] at hn; omega
  exact resultOf_whole hb hxs (hlast ▸ hperf.rbuf_length hi)

theorem runDue_next {s : State} (hi : Inv s) : ∃ t, runDue s = .next t := by
  cases hd : s.due with
  | nothing => exact ⟨_, by simp [runDue, fetch, hd]; rfl⟩
  | accept q sub =>
    cases hw : decodeWord sub.cw with
    | error e => exact ⟨_, by simp [runDue, fetch, hd, hw]; rfl⟩
    | ok i =>
      have hrun : runDue s = exec i s := by simp [runDue, fetch, hd, hw]
      exact hrun ▸ exec_accept_next hd i
  | perform p o => exact runDue_perform_next hi hd

/-- Settles O42, by the kinds of turn: a value is there wherever a take or a perform step reads one. -/
theorem noStepStops : Obligations.NoStepStops := by
  unfold Obligations.NoStepStops
  intro s hi
  unfold step
  split
  · exact ⟨_, rfl⟩
  · exact ⟨_, rfl⟩
  · exact ⟨_, rfl⟩
  · exact take_next hi _
  · exact runDue_next hi
  · exact runDue_next hi

end Sys2Proof.Machine
end

section
/-! # The events of an outstanding command are its plan so far -/

namespace Sys2Proof.Machine

/-- What EventsFollowPlans says of a port in state y. -/
def EventsFollowPlan (c : Config) (p : PortId) (y : PortState) (history : List BusEvent) : Prop :=
  ∃ i xs earlier, ∃ bytes : List (List Byte), Carries c y i xs ∧ bytes.length = y.step.toNat ∧ y.rbuf = bytes.flatten ∧
    eventsOf p history = earlier ++ (List.zip (xs.take y.step.toNat) bytes).map fun (x, rs) => ⟨p, x, .ok rs⟩

theorem eventsFollowPlans_iff {s : State} :
    EventsFollowPlans s ↔ ∀ p, (s.port p).pending → EventsFollowPlan s.cfg p (s.port p) s.history := Iff.rfl

theorem eventsOf_concat_self (p : PortId) (history : List BusEvent) (x : Xfer) (o : ChanOutcome) :
    eventsOf p (history ++ [⟨p, x, o⟩]) = eventsOf p history ++ [⟨p, x, o⟩] := by
  simp [eventsOf]

theorem eventsOf_concat_of_ne {p q : PortId} (h : q ≠ p) (history : List BusEvent) (x : Xfer) (o : ChanOutcome) :
    eventsOf q (history ++ [⟨p, x, o⟩]) = eventsOf q history := by
  simp [eventsOf, Ne.symm h]

/-- A port's claim reads only the port's own events. -/
theorem EventsFollowPlan.congr {c : Config} {p : PortId} {y : PortState} {history history' : List BusEvent}
    (h : EventsFollowPlan c p y history) (he : eventsOf p history' = eventsOf p history) :
    EventsFollowPlan c p y history' := by
  obtain ⟨i, xs, earlier, bytes, hc, hl, hb, hev⟩ := h
  exact ⟨i, xs, earlier, bytes, hc, hl, hb, he.trans hev⟩

theorem Touches.eventsOf_elsewhere {s t : State} {p q : PortId} (h : Touches s t p) (hq : q ≠ p) :
    eventsOf q t.history = eventsOf q s.history := by
  rcases h.here.lock_cases with ⟨-, he, -⟩ | ⟨-, -, he, -⟩ | ⟨-, -, -, o, y, -, he⟩ <;> rw [he]
  exact eventsOf_concat_of_ne hq _ y o

/-- One more transaction of the plan, answered with the bytes rs. -/
theorem zip_take_succ {xs : List Xfer} {n : Nat} {x : Xfer} {bytes : List (List Byte)} (hx : xs[n]? = some x)
    (hl : bytes.length = n) (rs : List Byte) :
    List.zip (xs.take (n + 1)) (bytes ++ [rs]) = List.zip (xs.take n) bytes ++ [(x, rs)] := by
  have hn := (List.getElem?_eq_some_iff.mp hx).1
  rw [List.take_add_one, hx, List.zip_append (by simp; omega)]
  rfl

/-- R104: an Ok transaction extends the port's events and RBUF alike. -/
theorem Performs.eventsFollowPlan {s : State} {p : PortId} {rs : List Byte} {i : Instr} {xs : List Xfer} {x : Xfer}
    (hx : Performs s p (.ok rs) i xs x) (he : EventsFollowPlan s.cfg p (s.port p) s.history) :
    EventsFollowPlan s.cfg p
      { s.port p with rbuf := (s.port p).rbuf ++ rs, step := (s.port p).step + 1, pst := .wait }
      (s.history ++ [⟨p, x, .ok rs⟩]) := by
  obtain ⟨j, ys, earlier, bytes, hc, hl, hb, hev⟩ := he
  obtain ⟨rfl, rfl⟩ := hx.eq_of_latched (latched_iff.mpr hc)
  refine ⟨j, ys, earlier, bytes ++ [rs], hc.congr rfl rfl rfl, ?_, ?_, ?_⟩
  · rw [List.length_append, hl]; exact hx.step_succ.symm
  · simp [hb]
  · rw [eventsOf_concat_self, hev, hx.step_succ, zip_take_succ hx.atStep hl]
    simp

theorem PortStep.eventsFollowPlan {s : State} {p : PortId} {y : PortState} {lock : Option PortId}
    {history : List BusEvent} (h : PortStep s p y lock history) (he : EventsFollowPlans s) (hy : y.pending) :
    EventsFollowPlan s.cfg p y history := by
  have he := eventsFollowPlans_iff.mp he p
  cases h with
  | grant c ts ht hl hp hw =>
    obtain ⟨i, xs, earlier, bytes, hc, hrest⟩ := he (.inl hw)
    exact ⟨i, xs, earlier, bytes, hc.congr rfl rfl rfl, hrest⟩
  | accept sub i hb hd hi hc =>
    obtain ⟨xs, hxs, -⟩ := carries_accepted hb hi hc
      (y := { s.port p with cmd := some sub.cw, wd := some sub.ws, step := 0, rbuf := [], pst := .wait }) rfl rfl
    exact ⟨i, xs, eventsOf p s.history, [], hxs, rfl, rfl, by simp⟩
  | again rs i xs x hx => exact hx.eventsFollowPlan (he hx.pending)
  | take | refuse | bind | abort | finish => simp [PortState.pending] at hy

/-- Settles O51: the touched port by its port step; every other port keeps its state and its events. -/
theorem everyStepKeepsPlanOrder : Obligations.EveryStepKeepsPlanOrder := by
  unfold Obligations.EveryStepKeepsPlanOrder
  intro s t _ he h
  have hports := eventsFollowPlans_iff.mp he
  rw [eventsFollowPlans_iff, (step_move h).cfg_eq]
  intro p hp
  rcases step_cases h with ⟨-, rfl⟩ | hu | ⟨q, hq⟩
  · simp [PortState.pending, PortState.reset] at hp
  · rw [hu.port] at hp ⊢
    exact (hports p hp).congr (congrArg (eventsOf p) hu.history)
  · by_cases e : p = q
    · subst e; exact hq.here.eventsFollowPlan he hp
    · rw [hq.elsewhere p e] at hp ⊢
      exact (hports p hp).congr (hq.eventsOf_elsewhere e)

end Sys2Proof.Machine
end

section
/-! # The history records the transactions performed -/

namespace Sys2Proof.Machine

/-- R55, R103: a port step records the transaction it performs, whatever the outcome, and nothing else. -/
theorem PortStep.history_cases {s : State} {p : PortId} {y : PortState} {lock : Option PortId}
    {history : List BusEvent} (h : PortStep s p y lock history) :
    history = s.history ∨ ∃ o i xs x, Performs s p o i xs x ∧ history = s.history ++ [⟨p, x, o⟩] := by
  cases h with
  | grant | take | refuse | bind | accept => exact .inl rfl
  | abort ph i xs x hx => exact .inr ⟨_, i, xs, x, hx, rfl⟩
  | again rs i xs x hx | finish rs i xs x r hx => exact .inr ⟨_, i, xs, x, hx, rfl⟩

/-- A reset keeps the history (R230). -/
theorem step_history_cases {s t : State} (h : step s = .next t) :
    t.history = s.history ∨ ∃ p o i xs x, Performs s p o i xs x ∧ t.history = s.history ++ [⟨p, x, o⟩] := by
  rcases step_cases h with ⟨-, rfl⟩ | hu | ⟨p, hp⟩
  · exact .inl rfl
  · exact .inl hu.history
  · exact hp.here.history_cases.imp_right fun hx => ⟨p, hx⟩

/-- The word that a performing port has latched is legal with the latched data lane (R85, R106). -/
theorem Performs.latched_legal {s : State} {p : PortId} {o : ChanOutcome} {i : Instr} {xs : List Xfer} {x : Xfer}
    (hx : Performs s p o i xs x) (hi : Inv s) : Latched s p i xs :=
  latched_iff.mpr (hx.planned hi).1

/-- Settles O50, by the transaction a step performs: under the invariant its command is the port's legal latched one. -/
theorem historyRecordsPlannedTransactions : Obligations.HistoryRecordsPlannedTransactions := by
  unfold Obligations.HistoryRecordsPlannedTransactions
  intro s t hi h
  rcases step_history_cases h with hh | ⟨p, o, i, xs, x, hx, hh⟩
  · exact .inl hh
  · exact .inr ⟨p, o, i, xs, x, hx.due, hx.latched_legal hi, hx.atStep, hh⟩

end Sys2Proof.Machine
end

section
/-! # Words and commands

A command read from a word is one whose row the word matches, with the operands its fields hold (`decodeWord_eq_ok`); the
statements about encoding and decoding follow from that and from the fields of an encoded word. -/

namespace Sys2Proof

/-! ## Bits under a mask -/

/-- The bits that a mask keeps whole are those of the masked word. -/
theorem extractLsb'_eq_of_mask {w mask m : Word} (start len : Nat) {v : BitVec len} (h : w &&& mask = m)
    (hm : mask.extractLsb' start len = BitVec.allOnes len) (hv : m.extractLsb' start len = v) :
    w.extractLsb' start len = v := by
  rw [← hv, ← h, BitVec.extractLsb'_and, hm, BitVec.and_allOnes]

theorem opcode_in_mask {r : OpcodeRow} (h : r ∈ opcodeTable) : opField r.mask = BitVec.allOnes 4 := by
  revert r; decide

/-- R78: a row fixes the opcode of the words that match it. -/
theorem opField_of_row {w : Word} {r : OpcodeRow} (hr : r ∈ opcodeTable) (h : w &&& r.mask = r.matchBits) :
    opField w = opField r.matchBits :=
  extractLsb'_eq_of_mask 0 4 h (opcode_in_mask hr) rfl

/-! ## Fields of a word -/

/-- Neighbouring fields of a word are one field. -/
theorem join_fields (w : Word) (start lo hi : Nat) :
    w.extractLsb' (start + lo) hi ++ w.extractLsb' start lo = w.extractLsb' start (hi + lo) :=
  BitVec.extractLsb'_append_extractLsb'_eq_extractLsb' rfl

/-- R71, R74, R75: the fields of formats R and T, and CW[15:11] between them, make up the word. -/
theorem append_fields (w : Word) :
    topField w ++ midField w ++ w.extractLsb' 11 5 ++ addrField w ++ opField w = w := by
  unfold topField midField addrField opField
  rw [join_fields w 16 8 8, join_fields w 11 5 16, join_fields w 4 7 21, join_fields w 0 4 28]
  exact BitVec.extractLsb'_eq_self

/-- R71, R73: the same of format B. -/
theorem append_fields_bind (w : Word) : w.extractLsb' 5 27 ++ aselField w ++ opField w = w := by
  unfold aselField opField
  rw [join_fields w 4 1 27, join_fields w 0 4 28]
  exact BitVec.extractLsb'_eq_self

section
variable (top mid : Byte) (zeros : BitVec 5) (addr : Addr7) (op : BitVec 4)

theorem addrField_append : addrField (top ++ mid ++ zeros ++ addr ++ op) = addr :=
  (BitVec.extractLsb'_append_eq_of_le (by decide)).trans BitVec.extractLsb'_append_eq_right

theorem midField_append : midField (top ++ mid ++ zeros ++ addr ++ op) = mid := by
  unfold midField
  rw [BitVec.extractLsb'_append_eq_of_le (by decide), BitVec.extractLsb'_append_eq_of_le (by decide),
    BitVec.extractLsb'_append_eq_of_le (by decide)]
  exact BitVec.extractLsb'_append_eq_right

theorem topField_append : topField (top ++ mid ++ zeros ++ addr ++ op) = top := by
  unfold topField
  rw [BitVec.extractLsb'_append_eq_of_le (by decide), BitVec.extractLsb'_append_eq_of_le (by decide),
    BitVec.extractLsb'_append_eq_of_le (by decide)]
  exact BitVec.extractLsb'_append_eq_left

end

theorem aselField_append (zeros : BitVec 27) (asel : BitVec 1) (op : BitVec 4) :
    aselField (zeros ++ asel ++ op) = asel :=
  (BitVec.extractLsb'_append_eq_of_le (by decide)).trans BitVec.extractLsb'_append_eq_right

/-- The command with its operands taken from the word w (R77). -/
def Instr.withFields (w : Word) : Instr → Instr
  | .acquire => .acquire
  | .takeBus => .takeBus
  | .run => .run
  | .bind _ => .bind (aselField w)
  | .transact _ _ _ => .transact (addrField w) (midField w) (topField w)
  | .readReg _ _ => .readReg (addrField w) (midField w)
  | .writeReg _ _ _ => .writeReg (addrField w) (midField w) (topField w)
  | .readId => .readId
  | .readRange => .readRange
  | .readSample => .readSample

@[simp] theorem Instr.row_withFields (w : Word) (i : Instr) : (i.withFields w).row = i.row := by cases i <;> rfl

@[simp] theorem Instr.withFields_withFields (w : Word) (i : Instr) :
    (i.withFields w).withFields w = i.withFields w := by cases i <;> rfl

theorem Instr.row_mem (i : Instr) : i.row ∈ opcodeTable := by
  cases i <;> simp [Instr.row, opcodeTable]

theorem exists_row_of_mem {r : OpcodeRow} (h : r ∈ opcodeTable) : ∃ i : Instr, i.row = r := by
  simp [opcodeTable] at h
  rcases h with rfl | rfl | rfl | rfl | rfl | rfl | rfl | rfl | rfl | rfl
  · exact ⟨.acquire, rfl⟩
  · exact ⟨.takeBus, rfl⟩
  · exact ⟨.run, rfl⟩
  · exact ⟨.bind 0, rfl⟩
  · exact ⟨.transact 0 0 0, rfl⟩
  · exact ⟨.readReg 0 0, rfl⟩
  · exact ⟨.writeReg 0 0 0, rfl⟩
  · exact ⟨.readId, rfl⟩
  · exact ⟨.readRange, rfl⟩
  · exact ⟨.readSample, rfl⟩

theorem reservedClear_eq_ok {w : Word} {r : OpcodeRow} {i j : Instr} :
    reservedClear w r i = .ok j ↔ w &&& r.mask = r.matchBits ∧ i = j := by
  by_cases h : w &&& r.mask = r.matchBits <;> simp [reservedClear, OpcodeRow.accepts, h]

theorem reservedClear_ne_reservedOpcode (w : Word) (r : OpcodeRow) (i : Instr) :
    reservedClear w r i ≠ .error .reservedOpcode := by
  by_cases h : r.accepts w = true <;> simp [reservedClear, h]

/-- On a word with the opcode of i's row, the decoder looks at that row alone. -/
theorem decodeWord_of_opField {w : Word} {i : Instr} (h : opField w = opField i.row.matchBits) :
    decodeWord w = reservedClear w i.row (i.withFields w) := by
  unfold decodeWord
  rw [h]
  cases i <;> rfl

theorem decodeWord_eq_ok {w : Word} {i : Instr} :
    decodeWord w = .ok i ↔ w &&& i.row.mask = i.row.matchBits ∧ i.withFields w = i := by
  constructor
  · intro h
    unfold decodeWord at h
    split at h
    case h_11 => cases h
    all_goals
      obtain ⟨hr, rfl⟩ := reservedClear_eq_ok.mp h
      exact ⟨hr, rfl⟩
  · rintro ⟨hr, hf⟩
    rw [decodeWord_of_opField (opField_of_row i.row_mem hr)]
    exact reservedClear_eq_ok.mpr ⟨hr, hf⟩

theorem Instr.withFields_encode (i : Instr) : i.withFields (encode i) = i := by
  cases i with
  | bind asel => exact congrArg Instr.bind (aselField_append _ asel _)
  | transact addr wlen rlen =>
    simp only [Instr.withFields, encode, addrField_append, midField_append, topField_append]
  | readReg addr reg => simp only [Instr.withFields, encode, addrField_append, midField_append]
  | writeReg addr reg val =>
    simp only [Instr.withFields, encode, addrField_append, midField_append, topField_append]
  | acquire | takeBus | run | readId | readRange | readSample => rfl

theorem encode_row (i : Instr) : encode i &&& i.row.mask = i.row.matchBits := by
  cases i with
  | acquire => exact Laws.EncodedRow.acquire
  | takeBus => exact Laws.EncodedRow.takeBus
  | run => exact Laws.EncodedRow.run
  | bind asel => exact Laws.EncodedRow.bind asel
  | transact addr wlen rlen => exact Laws.EncodedRow.transact addr wlen rlen
  | readReg addr reg => exact Laws.EncodedRow.readReg addr reg
  | writeReg addr reg val => exact Laws.EncodedRow.writeReg addr reg val
  | readId => exact Laws.EncodedRow.readId
  | readRange => exact Laws.EncodedRow.readRange
  | readSample => exact Laws.EncodedRow.readSample

/-- Settles O1: an encoded word matches its command's row and holds the operands in their fields. -/
theorem decodeReadsBackEveryEncoding : Obligations.DecodeReadsBackEveryEncoding := by
  unfold Obligations.DecodeReadsBackEveryEncoding
  exact fun i => decodeWord_eq_ok.mpr ⟨encode_row i, i.withFields_encode⟩

/-- R74, R75: a word of format R or T with 0 in CW[15:11] is its operands and its opcode. -/
theorem append_operands {w : Word} {op : BitVec 4} (hz : w.extractLsb' 11 5 = 0#5) (hop : opField w = op) :
    topField w ++ midField w ++ 0#5 ++ addrField w ++ op = w := by
  rw [← hz, ← hop]
  exact append_fields w

/-- R80: a word that matches a row has no bit beyond the opcode and the operands. -/
theorem encode_withFields {w : Word} {i : Instr} (h : w &&& i.row.mask = i.row.matchBits) :
    encode (i.withFields w) = w := by
  have hop := opField_of_row i.row_mem h
  cases i with
  | acquire | takeBus | run | readId | readRange | readSample =>
    exact h.symm.trans BitVec.and_allOnes
  | bind asel =>
    change w &&& 0xFFFFFFEF#32 = 0x4#32 at h
    have hz : w.extractLsb' 5 27 = 0#27 := extractLsb'_eq_of_mask 5 27 h (by decide) (by decide)
    calc 0#27 ++ aselField w ++ 0x4#4
      _ = w.extractLsb' 5 27 ++ aselField w ++ opField w := by rw [hz, hop]; rfl
      _ = w := append_fields_bind w
  | transact addr wlen rlen =>
    change w &&& 0x0000F80F#32 = 0x5#32 at h
    exact append_operands (extractLsb'_eq_of_mask 11 5 h (by decide) (by decide)) hop
  | readReg addr reg =>
    change w &&& 0xFF00F80F#32 = 0x6#32 at h
    have ht : topField w = 0#8 := extractLsb'_eq_of_mask 24 8 h (by decide) (by decide)
    calc 0#8 ++ midField w ++ 0#5 ++ addrField w ++ 0x6#4
      _ = topField w ++ midField w ++ 0#5 ++ addrField w ++ 0x6#4 := by rw [ht]
      _ = w := append_operands (extractLsb'_eq_of_mask 11 5 h (by decide) (by decide)) hop
  | writeReg addr reg val =>
    change w &&& 0x0000F80F#32 = 0x7#32 at h
    exact append_operands (extractLsb'_eq_of_mask 11 5 h (by decide) (by decide)) hop

/-- Settles O2: the command read is the row's with the word's own fields. -/
theorem encodeReadsBackEveryDecoding : Obligations.EncodeReadsBackEveryDecoding := by
  unfold Obligations.EncodeReadsBackEveryDecoding
  intro w i h
  obtain ⟨hr, hf⟩ := decodeWord_eq_ok.mp h
  exact (congrArg encode hf).symm.trans (encode_withFields hr)

/-! ## The opcode table -/

theorem row_eq_of_opField : ∀ r ∈ opcodeTable, ∀ r' ∈ opcodeTable,
    opField r.matchBits = opField r'.matchBits → r = r' := by decide

theorem decodeWord_isOk_iff {w : Word} :
    (∃ i, decodeWord w = .ok i) ↔ ∃ r ∈ opcodeTable, w &&& r.mask = r.matchBits := by
  constructor
  · rintro ⟨i, h⟩
    exact ⟨i.row, i.row_mem, (decodeWord_eq_ok.mp h).1⟩
  · rintro ⟨r, hr, h⟩
    obtain ⟨i, rfl⟩ := exists_row_of_mem hr
    exact ⟨i.withFields w, decodeWord_eq_ok.mpr ⟨by simpa using h, by simp⟩⟩

/-- Settles O3: the rows differ in their opcodes, and a command is read from its own row. -/
theorem decodingFollowsTheOpcodeTable : Obligations.DecodingFollowsTheOpcodeTable := by
  unfold Obligations.DecodingFollowsTheOpcodeTable
  refine fun w => ⟨decodeWord_isOk_iff, fun r hr r' hr' h h' => ?_, fun i h => ⟨i.row_mem, (decodeWord_eq_ok.mp h).1⟩⟩
  exact row_eq_of_opField r hr r' hr' ((opField_of_row hr h).symm.trans (opField_of_row hr' h'))

theorem opField_toNat (w : Word) : (opField w).toNat = w.toNat % 16 := by
  simp [opField]

/-- R79. -/
theorem decodeWord_reservedOpcode {w : Word} :
    decodeWord w = .error .reservedOpcode ↔ (opField w).toNat = 0 ∨ 11 ≤ (opField w).toNat := by
  have hlt := (opField w).isLt
  unfold decodeWord
  generalize (opField w).toNat = n at hlt
  interval_cases n <;> simp [reservedClear_ne_reservedOpcode]

/-- R79, R80: the decoder of the word alone has two ways to refuse it. -/
theorem decodeWord_eq_error {w : Word} {e : DecodeError} (h : decodeWord w = .error e) :
    e = .reservedOpcode ∨ e = .reservedBits := by
  unfold decodeWord at h
  split at h
  case h_11 => cases h; exact .inl rfl
  all_goals
    unfold reservedClear at h
    split at h
    · cases h
    · cases h; exact .inr rfl

theorem decodeWord_reservedBits {w : Word} :
    decodeWord w = .error .reservedBits ↔
      decodeWord w ≠ .error .reservedOpcode ∧ ¬ ∃ i, decodeWord w = .ok i := by
  cases h : decodeWord w with
  | ok i => simp
  | error e => rcases decodeWord_eq_error h with rfl | rfl <;> simp

/-- Settles O4: the decoder refuses a reserved opcode first, and after that only a word that matches no row. -/
theorem reservedOpcodesAndBitsAreIllegal : Obligations.ReservedOpcodesAndBitsAreIllegal := by
  unfold Obligations.ReservedOpcodesAndBitsAreIllegal
  intro w
  have hop := decodeWord_reservedOpcode (w := w)
  rw [opField_toNat] at hop
  refine ⟨hop, ?_⟩
  rw [decodeWord_reservedBits, decodeWord_isOk_iff, Ne, hop]
  push Not
  exact and_congr_left fun _ => by omega

/-! ## Operands -/

theorem aselField_toNat (w : Word) : (aselField w).toNat = w.toNat / 2 ^ 4 % 2 := by
  simp [aselField, Nat.shiftRight_eq_div_pow]

theorem addrField_toNat (w : Word) : (addrField w).toNat = w.toNat / 2 ^ 4 % 2 ^ 7 := by
  simp [addrField, Nat.shiftRight_eq_div_pow]

theorem midField_toNat (w : Word) : (midField w).toNat = w.toNat / 2 ^ 16 % 2 ^ 8 := by
  simp [midField, Nat.shiftRight_eq_div_pow]

theorem topField_toNat (w : Word) : (topField w).toNat = w.toNat / 2 ^ 24 := by
  have := w.isLt
  simp [topField, Nat.shiftRight_eq_div_pow]
  omega

/-- Settles O6: the operands are the word's own fields. -/
theorem operandsAreUnsignedFields : Obligations.OperandsAreUnsignedFields := by
  unfold Obligations.OperandsAreUnsignedFields
  refine fun w => ⟨fun a h => ?_, fun a n m h => ?_, fun a r h => ?_, fun a r v h => ?_⟩
  all_goals
    obtain ⟨-, hf⟩ := decodeWord_eq_ok.mp h
    cases hf
  · exact aselField_toNat w
  · exact ⟨addrField_toNat w, midField_toNat w, topField_toNat w⟩
  · exact ⟨addrField_toNat w, midField_toNat w⟩
  · exact ⟨addrField_toNat w, midField_toNat w, topField_toNat w⟩

end Sys2Proof
end

section
/-! # Legality, and what the assembler accepts -/

namespace Sys2Proof.Machine

/-! ## Lengths and data lane -/

theorem laneOk_iff {i : Instr} {ws : List Byte} : i.laneOk ws = true ↔ ws.length = i.laneLength := decide_eq_true_iff

/-- R81, R82 for a TRANSACT. -/
theorem legal_transact {c : Config} {a : Addr7} {n m : Byte} {ws : List Byte} :
    (Instr.transact a n m).legal c ws = true ↔
      n.toNat ≤ c.wmax ∧ m.toNat ≤ c.rmax ∧ n.toNat + m.toNat ≠ 0 ∧ ws.length = n.toNat := by
  simp only [Instr.legal, Instr.wf, Bool.and_eq_true, decide_eq_true_eq, laneOk_iff, Instr.laneLength, and_assoc,
    Nat.one_le_iff_ne_zero]

/-- R82: every other command is legal with an empty lane, and with no other. -/
theorem legal_of_not_transact {c : Config} {i : Instr} {ws : List Byte} (h : ∀ a n m, i ≠ .transact a n m) :
    i.legal c ws = true ↔ ws = [] := by
  cases i with
  | transact a n m => exact absurd rfl (h a n m)
  | acquire | takeBus | run | bind | readReg | writeReg | readId | readRange | readSample =>
    simp [Instr.legal, Instr.wf, laneOk_iff, Instr.laneLength]

/-- Settles O5, by the legality of the row's command. -/
theorem lengthsAndLaneDecideLegality : Obligations.LengthsAndLaneDecideLegality := by
  unfold Obligations.LengthsAndLaneDecideLegality
  refine fun c w ws => ⟨fun i h => (decode_eq_ok.mp h).1, fun a n m h => ?_, fun i h hi => ?_⟩
  · rw [decode_eq_ok, legal_transact]
    exact and_iff_right h
  · rw [decode_eq_ok, legal_of_not_transact hi]
    exact and_iff_right h

/-! ## The assembler -/

theorem decode_encode {c : Config} {i : Instr} {ws : List Byte} (h : i.legal c ws = true) :
    decode c (encode i) ws = .ok i := by
  have hdec := decodeReadsBackEveryEncoding
  unfold Obligations.DecodeReadsBackEveryEncoding at hdec
  exact decode_eq_ok.mpr ⟨hdec i, h⟩

theorem asField_eq_some {w n : Nat} {x : BitVec w} : asField w n = some x ↔ n < 2 ^ w ∧ BitVec.ofNat w n = x := by
  by_cases h : n < 2 ^ w <;> simp [asField, h]

/-- R92: the bytes of a write list are its numbers. -/
theorem asBytes_toNat {ns : List Nat} {bs : List Byte} (h : asBytes ns = some bs) : bs.map BitVec.toNat = ns := by
  induction ns generalizing bs with
  | nil => cases h; rfl
  | cons n ns ih =>
    unfold asBytes at h
    split at h
    · rename_i b bs' hb hbs
      cases h
      obtain ⟨hlt, rfl⟩ := asField_eq_some.mp hb
      rw [List.map_cons, ih hbs, BitVec.toNat_ofNat, Nat.mod_eq_of_lt hlt]
    · cases h

theorem asBytes_length {ns : List Nat} {bs : List Byte} (h : asBytes ns = some bs) : bs.length = ns.length := by
  rw [← asBytes_toNat h, List.length_map]

/-- R92: an accepted TRANSACT has operands that fit their fields, lengths that keep R81, and its write list as the lane. -/
theorem assembleTransact_eq_some {c : Config} {addr rlen : Nat} {ws : List Nat} {sub : Submission}
    (h : assembleTransact c addr ws rlen = some sub) :
    addr < 128 ∧ sub.ws.map BitVec.toNat = ws ∧
      decode c sub.cw sub.ws =
        .ok (.transact (BitVec.ofNat 7 addr) (BitVec.ofNat 8 ws.length) (BitVec.ofNat 8 rlen)) := by
  unfold assembleTransact at h
  split at h
  · rename_i a bs n m ha hbs hn hm
    split at h
    · rename_i hwf
      cases h
      obtain ⟨haddr, rfl⟩ := asField_eq_some.mp ha
      obtain ⟨hlen, rfl⟩ := asField_eq_some.mp hn
      obtain ⟨-, rfl⟩ := asField_eq_some.mp hm
      refine ⟨haddr, asBytes_toNat hbs, decode_encode ?_⟩
      have hlane : bs.length = ws.length % 2 ^ 8 := by rw [asBytes_length hbs, Nat.mod_eq_of_lt hlen]
      simpa [Instr.legal, hwf, laneOk_iff, Instr.laneLength] using hlane
    · cases h
  · cases h

/-- The TRANSACT a written command stands for, if it is one (R93). -/
theorem assemble_transact {c : Config} {a : AsmCommand} {addr rlen : Nat} {ws : List Nat}
    (h : a = .transact addr ws rlen ∨ (a = .startMeas addr ws ∧ rlen = 0) ∨ (a = .fetch addr rlen ∧ ws = [])) :
    assemble c a = assembleTransact c addr ws rlen := by
  rcases h with rfl | ⟨rfl, rfl⟩ | ⟨rfl, rfl⟩ <;> rfl

theorem decodes_of_encoded {c : Config} {sub : Submission} (i : Instr) (h : some ⟨encode i, []⟩ = some sub)
    (hl : i.legal c [] = true) : ∃ j, decode c sub.cw sub.ws = .ok j :=
  ⟨i, Option.some.inj h ▸ decode_encode hl⟩

theorem assemble_decodes {c : Config} {a : AsmCommand} {sub : Submission} (h : assemble c a = some sub) :
    ∃ i, decode c sub.cw sub.ws = .ok i := by
  cases a with
  | acquire => exact decodes_of_encoded .acquire h rfl
  | takeBus => exact decodes_of_encoded .takeBus h rfl
  | run => exact decodes_of_encoded .run h rfl
  | bind asel => exact decodes_of_encoded (.bind asel) h rfl
  | readId => exact decodes_of_encoded .readId h rfl
  | readRange => exact decodes_of_encoded .readRange h rfl
  | readSample => exact decodes_of_encoded .readSample h rfl
  | readReg addr reg =>
    simp only [assemble] at h
    split at h
    · exact decodes_of_encoded (.readReg _ _) h rfl
    · cases h
  | writeReg addr reg val =>
    simp only [assemble] at h
    split at h
    · exact decodes_of_encoded (.writeReg _ _ _) h rfl
    · cases h
  | transact | startMeas | fetch =>
    obtain ⟨-, -, hdec⟩ := assembleTransact_eq_some h
    exact ⟨_, hdec⟩

/-- Settles O8: an accepted command is encoded, with a lane of the length its word asks for. -/
theorem assembledCommandsDecode : Obligations.AssembledCommandsDecode := by
  unfold Obligations.AssembledCommandsDecode
  exact fun c a sub h =>
    ⟨assemble_decodes h, fun addr ws rlen ha => assembleTransact_eq_some ((assemble_transact ha).symm.trans h)⟩

end Sys2Proof.Machine
end

section
/-! # Refused submissions -/

namespace Sys2Proof.Machine

/-! ## The response and the next state of a refused submission -/

/-- R86, R202: the response of a command that raises a status at acceptance is the status code alone. -/
theorem response_empty (st : Status) : response st 0 Result.empty = ⟨st.code.setWidth 32, none⟩ :=
  congrArg (Response.mk · none) (responseWord_status st)

theorem raise_latch_m (s : State) (cw : Word) (ws : List Byte) (st : Status) :
    raise .m st 0 (latch .m ⟨cw, ws⟩ s) = afterSubmitM s ⟨st.code.setWidth 32, none⟩ := by
  rw [← response_empty]
  rfl

theorem raise_latch_handle_eq_afterSubmit (s : State) (p : PortId) (cw : Word) (ws : List Byte) (st : Status) :
    raise (.handle p) st 0 (latch (.handle p) ⟨cw, ws⟩ s) =
      afterSubmit s p cw (ws.take s.cfg.wmax) ((s.port p).doneWith ⟨st.code.setWidth 32, none⟩) := by
  rw [raise_latch_handle, response_empty]
  rfl

/-! ## Which submissions are refused -/

/-- R202: a command whose check fails is refused with the status of that check. -/
theorem exec_refused {s : State} {q : PortRef} {sub : Submission} {i : Instr} (hd : s.due = .accept q sub)
    (hc : check s q sub.ws i ≠ .ok) : exec i s = .next (raise q (check s q sub.ws i) 0 (latch q sub s)) := by
  have himm (effect) : runImmediate i effect s = .next (raise q (check s q sub.ws i) 0 (latch q sub s)) := by
    simp [runImmediate, hd, hc]
  cases i with
  | acquire => exact himm acquireEffect
  | takeBus => exact himm takeBusEffect
  | run => exact himm runEffect
  | bind a => exact himm (bindEffect a)
  | transact | readReg | writeReg | readId | readRange | readSample =>
    rw [exec_bus rfl]
    simp [runBus, hd, hc]

theorem check_illegal {s : State} {q : PortRef} {ws : List Byte} {i : Instr} (h : i.legal s.cfg ws = false) :
    check s q ws i = .illegal := by
  simp [check, h]

theorem check_wrongPort {s : State} {q : PortRef} {ws : List Byte} {i : Instr} (h : i.legal s.cfg ws = true)
    (hq : wrongPort q i = true) : check s q ws i = .wrongPort := by
  simp [check, h, hq]

/-- R79 to R82: whether the word or its lengths or lane are Illegal, the submission is refused with E_ILLEGAL. -/
theorem step_illegal {s : State} {q : PortRef} {sub : Submission} {e : DecodeError} (hd : s.due = .accept q sub)
    (he : decode s.cfg sub.cw sub.ws = .error e) : step s = .next (raise q .illegal 0 (latch q sub s)) := by
  rw [step_of_accept hd]
  cases hw : decodeWord sub.cw with
  | error e => simp [runDue, fetch, hd, hw, acceptIllegal]
  | ok i =>
    have hl : i.legal s.cfg sub.ws = false := by
      refine Bool.eq_false_iff.mpr fun hl => ?_
      rw [decode_eq_ok.mpr ⟨hw, hl⟩] at he
      cases he
    have hc : check s q sub.ws i = .illegal := check_illegal hl
    have hrun : runDue s = exec i s := by simp [runDue, fetch, hd, hw]
    rw [hrun, exec_refused hd (by simp [hc]), hc]

/-- Settles O12: every Illegal submission is refused in the same way. -/
theorem illegalSubmissionCompletesAtOnce : Obligations.IllegalSubmissionCompletesAtOnce := by
  unfold Obligations.IllegalSubmissionCompletesAtOnce
  intro s cw ws e he
  refine ⟨fun hd => ?_, fun p hd => ?_⟩
  · rw [step_illegal hd he, raise_latch_m]
    rfl
  · rw [step_illegal hd he, raise_latch_handle_eq_afterSubmit]
    rfl

theorem isManagement_iff {i : Instr} : i.isManagement = true ↔ i ∈ [.acquire, .takeBus, .run] := by
  cases i <;> simp [Instr.isManagement]

/-- Settles O15: the port class is checked right after legality, and a legal lane is latched whole. -/
theorem wrongClassOfPortIsReported : Obligations.WrongClassOfPortIsReported := by
  unfold Obligations.WrongClassOfPortIsReported
  intro s i cw ws hl
  refine ⟨fun hi hd => ?_, fun p hi hd => ?_⟩
  · rw [← isManagement_iff, Bool.not_eq_true] at hi
    have hc : check s .m ws i = .wrongPort := check_wrongPort hl (by simp [wrongPort, hi])
    rw [exec_refused hd (by simp [hc]), hc, raise_latch_m]
    rfl
  · have hc : check s (.handle p) ws i = .wrongPort := check_wrongPort hl (isManagement_iff.mpr hi)
    rw [exec_refused hd (by simp [hc]), hc, raise_latch_handle_eq_afterSubmit,
      List.take_of_length_le (legal_lane_length_le hl)]
    rfl

end Sys2Proof.Machine
end

section
/-! # The channel contract -/

namespace Sys2Proof.Machine

/-- R81: every transaction of a legal command moves at least one byte. -/
theorem plan_moves_bytes {c : Config} {y : PortState} {i : Instr} {xs : List Xfer} (h : Carries c y i xs) :
    ∀ x ∈ xs, 1 ≤ x.ws.length + x.m := by
  obtain ⟨cw, ws, -, hws, hdec, hxs⟩ := h
  cases i with
  | transact a n m =>
    obtain ⟨-, -, hne, hlen⟩ := legal_transact.mp (decode_eq_ok.mp hdec).2
    simp only [planOf, planTransact, hws, Option.some.injEq] at hxs
    subst hxs
    simp
    omega
  | acquire | takeBus | run | bind => cases hxs; simp
  | readReg | writeReg | readId | readRange | readSample =>
    cases hxs
    simp [memRead, memWrite, Config.sampleRegs]

theorem Performs.moves_bytes {s : State} {p : PortId} {o : ChanOutcome} {i : Instr} {xs : List Xfer} {x : Xfer}
    (hx : Performs s p o i xs x) (hi : Inv s) : 1 ≤ x.ws.length + x.m :=
  plan_moves_bytes (hx.planned hi).1 x (List.mem_of_getElem? hx.atStep)

/-- Settles O52, by the transaction a step performs: its outcome is admitted and its plan's transactions move bytes. -/
theorem everyStepKeepsTheChannelContract : Obligations.EveryStepKeepsTheChannelContract := by
  unfold Obligations.EveryStepKeepsTheChannelContract
  intro s t hi hs h e he
  rcases step_history_cases h with hh | ⟨p, o, i, xs, x, hx, hh⟩
  · exact hs e (hh ▸ he)
  · rw [hh, List.mem_append, List.mem_singleton] at he
    rcases he with he | rfl
    · exact hs e he
    · exact ⟨hx.admitted, hx.moves_bytes hi⟩

end Sys2Proof.Machine
end

section
/-! # Responses are canonical -/

namespace Sys2Proof.Machine

/-! ## The fields of a response word -/

section
variable (st : Status) (n : BitVec 3) (byte : Byte) (rset : BitVec 3)

theorem statusField_responseWord : statusField (responseWord st n byte rset) = st.code :=
  BitVec.extractLsb'_append_eq_right

theorem stepField_responseWord : stepField (responseWord st n byte rset) = n := by
  unfold stepField responseWord
  rw [BitVec.extractLsb'_append_eq_of_le (by decide)]
  exact BitVec.extractLsb'_append_eq_right

theorem lowZeros_responseWord : (responseWord st n byte rset).extractLsb' 11 5 = 0#5 := by
  unfold responseWord
  rw [BitVec.extractLsb'_append_eq_of_le (by decide), BitVec.extractLsb'_append_eq_of_le (by decide)]
  exact BitVec.extractLsb'_append_eq_right

theorem byteField_responseWord : byteField (responseWord st n byte rset) = byte := by
  unfold byteField responseWord
  rw [BitVec.extractLsb'_append_eq_of_le (by decide), BitVec.extractLsb'_append_eq_of_le (by decide),
    BitVec.extractLsb'_append_eq_of_le (by decide)]
  exact BitVec.extractLsb'_append_eq_right

theorem rsetField_responseWord : rsetField (responseWord st n byte rset) = rset := by
  unfold rsetField responseWord
  rw [BitVec.extractLsb'_append_eq_of_le (by decide), BitVec.extractLsb'_append_eq_of_le (by decide),
    BitVec.extractLsb'_append_eq_of_le (by decide), BitVec.extractLsb'_append_eq_of_le (by decide)]
  exact BitVec.extractLsb'_append_eq_right

theorem highZeros_responseWord : (responseWord st n byte rset).extractLsb' 27 5 = 0#5 := by
  unfold responseWord
  rw [BitVec.extractLsb'_append_eq_of_le (by decide), BitVec.extractLsb'_append_eq_of_le (by decide),
    BitVec.extractLsb'_append_eq_of_le (by decide), BitVec.extractLsb'_append_eq_of_le (by decide)]
  exact BitVec.extractLsb'_append_eq_left

end

theorem code_mem_producedCodes {st : Status} (h : st ≠ .unreachableConfig) : st.code ∈ producedCodes := by
  cases st with
  | unreachableConfig => exact absurd rfl h
  | _ => decide

/-- R86 to R89, for the result of a command that was not turned into an error. -/
theorem response_ok_canonical {r : Result} (hr : r.rset.toNat ≤ 3) : (response .ok 0 r).Canonical where
  zeros := ⟨highZeros_responseWord _ _ _ _, lowZeros_responseWord _ _ _ _⟩
  code := by
    rw [response, statusField_responseWord]
    exact code_mem_producedCodes (by decide)
  stepOnlyOnTransport h := absurd (stepField_responseWord _ _ _ _) h
  stepAtMostSix := by rw [response, stepField_responseWord]; decide
  onError h := absurd (statusField_responseWord _ _ _ _) h
  range := by rwa [response, rsetField_responseWord]

/-- R86 to R89, for a raised status. -/
theorem response_raised_canonical {st : Status} {n : BitVec 3} (hst : st ≠ .unreachableConfig)
    (hn : n ≠ 0#3 → st.code = 0x01#8 ∨ st.code = 0x02#8) (h6 : n.toNat ≤ 6) :
    (response st n Result.empty).Canonical where
  zeros := ⟨highZeros_responseWord _ _ _ _, lowZeros_responseWord _ _ _ _⟩
  code := by
    rw [response, statusField_responseWord]
    exact code_mem_producedCodes hst
  stepOnlyOnTransport := by rwa [response, stepField_responseWord, statusField_responseWord]
  stepAtMostSix := by rwa [response, stepField_responseWord]
  onError _ := ⟨byteField_responseWord _ _ _ _, rsetField_responseWord _ _ _ _, rfl⟩
  range := by rw [response, rsetField_responseWord]; decide

theorem response_refused_canonical {st : Status} (hst : st ≠ .unreachableConfig) :
    (response st 0 Result.empty).Canonical :=
  response_raised_canonical hst (absurd rfl) (by decide)

theorem response_transport_canonical (ph : XferPhase) {n : BitVec 3} (h6 : n.toNat ≤ 6) :
    (response (transportStatus ph) n Result.empty).Canonical := by
  cases ph with
  | write => exact response_raised_canonical (by decide) (fun _ => .inl rfl) h6
  | read => exact response_raised_canonical (by decide) (fun _ => .inr rfl) h6

/-! ## What commands answer -/

theorem checkBus_ne_unreachable (s : State) : checkBus s ≠ .unreachableConfig := by
  unfold checkBus
  split <;> simp

theorem checkDriver_ne_unreachable (s : State) (q : PortRef) : checkDriver s q ≠ .unreachableConfig := by
  unfold checkDriver
  split
  · exact checkBus_ne_unreachable s
  · simp

/-- R204: no check gives E_UNREACHABLE_CONFIG. -/
theorem check_ne_unreachable (s : State) (q : PortRef) (ws : List Byte) (i : Instr) :
    check s q ws i ≠ .unreachableConfig := by
  have hcmd : checkCommand s q i ≠ .unreachableConfig := by
    cases i with
    | acquire | takeBus | run | bind =>
      simp only [checkCommand]
      split_ifs <;> simp
    | transact | readReg | writeReg => exact checkBus_ne_unreachable s
    | readId | readRange | readSample => exact checkDriver_ne_unreachable s q
  unfold check
  split_ifs
  · simp
  · simp
  · simp
  · exact hcmd

/-- R188: under a legal configuration the Range Decoder never gives UNRECOGNIZED. -/
theorem decodeRange_ne_unrecognized {c : Config} (hc : c.wf) (b : Byte) : decodeRange c b ≠ .unrecognized := by
  obtain ⟨-, -, -, -, -, -, hu, -⟩ := hc
  exact fun h => hu (h ▸ by simp [decodeRange])

theorem fullScale_of_recognized {rs : RangeSetting} (h : rs ≠ .unrecognized) :
    (∃ f, fullScale rs = some f) ∧ (rsetCode rs).toNat ≤ 3 := by
  cases rs with
  | unrecognized => exact absurd rfl h
  | fs2 | fs4 | fs8 | fs16 => exact ⟨⟨_, rfl⟩, by decide⟩

theorem rangeResult_ok {c : Config} (hc : c.wf) (b : Byte) :
    (rangeResult c b).status = .ok ∧ (rangeResult c b).rset.toNat ≤ 3 := by
  obtain ⟨⟨f, hf⟩, hr⟩ := fullScale_of_recognized (decodeRange_ne_unrecognized hc b)
  rw [rangeResult, hf]
  exact ⟨rfl, hr⟩

theorem sampleResult_ok {c : Config} (hc : c.wf) (x y z : Half) (b : Byte) :
    (sampleResult c x y z b).status = .ok ∧ (sampleResult c x y z b).rset.toNat ≤ 3 := by
  obtain ⟨⟨f, hf⟩, hr⟩ := fullScale_of_recognized (decodeRange_ne_unrecognized hc b)
  rw [sampleResult, hf]
  exact ⟨rfl, hr⟩

theorem byteResult_ok {rb : List Byte} {r : Result} (h : byteResult rb = some r) :
    r.status = .ok ∧ r.rset.toNat ≤ 3 := by
  unfold byteResult at h
  split at h <;> cases h
  exact ⟨rfl, Nat.zero_le _⟩

/-- R89, R107, R188: under a legal configuration every result is OK, with the code of a setting in RSET. -/
theorem resultOf_ok {c : Config} (hc : c.wf) {rb : List Byte} {i : Instr} {r : Result}
    (h : resultOf c rb i = some r) : r.status = .ok ∧ r.rset.toNat ≤ 3 := by
  cases i with
  | acquire | takeBus | run | bind => cases h
  | transact | writeReg => cases h; exact ⟨rfl, Nat.zero_le _⟩
  | readReg | readId => exact byteResult_ok h
  | readRange =>
    simp only [resultOf, resultReadRange] at h
    split at h <;> cases h
    exact rangeResult_ok hc _
  | readSample =>
    simp only [resultOf, resultReadSample] at h
    split at h <;> cases h
    exact sampleResult_ok hc _ _ _ _

/-! ## The responses a state holds -/

theorem CanonicalResponses.setPort {s : State} (h : CanonicalResponses s) (p : PortId) {x : PortState}
    (hx : ∀ r, x.rsp = some r → r.Canonical) : CanonicalResponses (s.setPort p x) := by
  obtain ⟨hp, hm, hd⟩ := h
  refine ⟨fun q r hr => ?_, hm, hd⟩
  rw [State.port_setPort] at hr
  split at hr
  · exact hx r hr
  · exact hp q r hr

theorem CanonicalResponses.deliver {s : State} (h : CanonicalResponses s) {q : PortRef} {r : Response}
    (hr : r.Canonical) : ∀ e ∈ s.delivered ++ [(q, r)], e.2.Canonical := by
  obtain ⟨-, -, hd⟩ := h
  intro e he
  rw [List.mem_append, List.mem_singleton] at he
  rcases he with he | rfl
  · exact hd e he
  · exact hr

theorem CanonicalResponses.complete {s : State} (h : CanonicalResponses s) (q : PortRef) {st : Status} {n : BitVec 3}
    {r : Result} (hr : (response st n r).Canonical) : CanonicalResponses (complete q st n r s) := by
  cases q with
  | m =>
    obtain ⟨hp, -, hd⟩ := h
    exact ⟨hp, fun _ e => Option.some.inj e ▸ hr, hd⟩
  | handle p => exact h.setPort p fun _ e => Option.some.inj e ▸ hr

theorem CanonicalResponses.latch {s : State} (h : CanonicalResponses s) (q : PortRef) (sub : Submission) :
    CanonicalResponses (latch q sub s) := by
  cases q with
  | m => exact h
  | handle p =>
    have hc : CanonicalResponses (s.consume (.handle p)) := h
    exact hc.setPort p (h.1 p)

theorem Move.canonicalResponses {s t : State} (h : Move s t) (hi : Inv s) (hs : CanonicalResponses s) :
    CanonicalResponses t := by
  have ⟨hp, hm, hd⟩ := hs
  cases h with
  | rest | pass => exact hs
  | reset => exact ⟨fun p r hr => by simp [PortState.reset] at hr, fun r hr => (nomatch hr), hd⟩
  | grant c p => exact CanonicalResponses.setPort hs p (hp p)
  | takeM ts r _ _ hr => exact ⟨hp, fun r' hr' => (nomatch hr'), hs.deliver (hm r hr)⟩
  | take ts p r _ _ _ hr =>
    have hb : CanonicalResponses { s.passTurn with delivered := s.delivered ++ [(PortRef.handle p, r)] } :=
      ⟨hp, hm, hs.deliver (hp p r hr)⟩
    exact hb.setPort p (by simp)
  | illegal q sub => exact (hs.latch q sub).complete q (response_refused_canonical (by decide))
  | refuse q sub i =>
    exact (hs.latch q sub).complete q (response_refused_canonical (check_ne_unreachable s q sub.ws i))
  | acquire | takeBus | run => exact CanonicalResponses.complete hs .m (response_ok_canonical (Nat.zero_le _))
  | bind p =>
    exact CanonicalResponses.setPort hs p fun r hr => Option.some.inj hr ▸ response_ok_canonical (Nat.zero_le _)
  | accept p | again p => exact CanonicalResponses.setPort hs p (hp p)
  | abort p o ph cw i xs x hd hcw hdec hxs hx =>
    have hlt := (List.getElem?_eq_some_iff.mp hx).1
    have hle := planOf_length_le hxs
    exact CanonicalResponses.complete hs (.handle p) (response_transport_canonical ph (by omega))
  | finish p o rs cw i xs x r hd hcw hdec hxs hx ha ho hn hr =>
    obtain ⟨hok, hrset⟩ := resultOf_ok hi.cfgWf hr
    exact CanonicalResponses.setPort hs p fun r' hr' =>
      Option.some.inj hr' ▸ hok ▸ response_ok_canonical hrset

/-- Settles O53, move by move: every new response is canonical. -/
theorem everyStepKeepsResponsesCanonical : Obligations.EveryStepKeepsResponsesCanonical := by
  unfold Obligations.EveryStepKeepsResponsesCanonical
  exact fun s t hi hs h => (step_move h).canonicalResponses hi hs

end Sys2Proof.Machine
end

section
/-! # Submissions: which are taken in, and what a step then runs -/

namespace Sys2Proof.Machine

/-! ## Turns that pass -/

theorem passTurn_eq {s : State} {u : Turn} {ts : List Turn} (ht : s.turns = u :: ts) :
    s.passTurn = { s with turns := ts } := by
  simp [State.passTurn, ht]

/-- Without an enabled command step a submission's turn passes. -/
theorem step_submit_waits {s : State} {q : PortRef} {ts : List Turn} (ht : s.turns = .submit q :: ts)
    (hi : s.idle q = false) : step s = .next { s with turns := ts } := by
  have hdue : s.due = .nothing := by simp [State.due, ht, hi]
  simp [step, ht, runDue, fetch, hdue, passTurn_eq ht]

/-! ## Which submission is taken in -/

theorem due_eq_accept_iff {s : State} {q : PortRef} {sub : Submission} :
    s.due = .accept q sub ↔ (∃ ts, s.turns = .submit q :: ts) ∧ s.idle q = true ∧ ∃ os, s.offersOf q = sub :: os := by
  constructor
  · intro h
    obtain ⟨ts, os, ht, hi, ho⟩ := due_eq_accept h
    exact ⟨⟨ts, ht⟩, hi, os, ho⟩
  · rintro ⟨⟨ts, ht⟩, hi, os, ho⟩
    exact due_accept_of ht hi ho

theorem idle_m {s : State} : s.idle .m = true ↔ s.mst = .idle := by simp [State.idle]

theorem idle_handle {s : State} {p : PortId} : s.idle (.handle p) = true ↔ p.val < s.cfg.h ∧ (s.port p).pst = .idle := by
  simp [State.idle, present_iff]

/-- Settles O9, by the class of the port. -/
theorem submissionNeedsAnIdlePort : Obligations.SubmissionNeedsAnIdlePort := by
  unfold Obligations.SubmissionNeedsAnIdlePort
  intro s q sub
  rw [due_eq_accept_iff]
  refine and_congr_right fun _ => ?_
  cases q with
  | m => simp [idle_m, State.offersOf]
  | handle p => simp [idle_handle, State.offersOf, and_assoc]

/-- Settles O10: a busy port enables no submission. -/
theorem submissionOnABusyPortWaits : Obligations.SubmissionOnABusyPortWaits := by
  unfold Obligations.SubmissionOnABusyPortWaits
  refine fun s ts => ⟨fun ht hd => ?_, fun p ht hp => ?_⟩
  · exact step_submit_waits ht (by simp [State.idle, hd])
  · exact step_submit_waits ht (by simp [State.idle, hp])

/-! ## The command a step runs -/

theorem step_runs_submitted {s : State} {q : PortRef} {sub : Submission} {i : Instr} (hd : s.due = .accept q sub)
    (hi : decodeWord sub.cw = .ok i) : step s = exec i s := by
  rw [step_of_accept hd]
  simp [runDue, fetch, hd, hi]

theorem step_runs_latched {s : State} {p : PortId} {o : ChanOutcome} {cw : Word} {i : Instr} (hd : s.due = .perform p o)
    (hcw : (s.port p).cmd = some cw) (hi : decodeWord cw = .ok i) : step s = exec i s := by
  rw [step_of_perform hd]
  simp [runDue, fetch, hd, hcw, hi]

/-- Settles O11, for an acceptance and for a perform step. -/
theorem stepRunsTheDecodedCommand : Obligations.StepRunsTheDecodedCommand := by
  unfold Obligations.StepRunsTheDecodedCommand
  exact fun s i => ⟨fun q sub hd hi => step_runs_submitted hd (decode_eq_ok.mp hi).1,
    fun p o cw hd hcw hi => step_runs_latched hd hcw hi⟩

end Sys2Proof.Machine
end

section
/-! # The commands that complete at acceptance, and the acceptance of the bus commands -/

namespace Sys2Proof.Machine

/-! ## The checks of one class of port -/

/-- R81, R82: a command that completes at acceptance is legal with an empty lane. -/
theorem legal_of_not_bus (c : Config) {i : Instr} (h : i.isBus = false) : i.legal c [] = true :=
  (legal_of_not_transact fun a n m e => by simp [e, Instr.isBus] at h).mpr rfl

theorem isManagement_of_isBus {i : Instr} (h : i.isBus = true) : i.isManagement = false := by
  cases i with
  | acquire | takeBus | run | bind => cases h
  | transact | readReg | writeReg | readId | readRange | readSample => rfl

/-- R204 on M: a management command with an empty lane meets its own checks alone. -/
theorem check_m (s : State) {i : Instr} (hm : i.isManagement = true) : check s .m [] i = checkCommand s .m i := by
  have hb : i.isBus = false := Bool.eq_false_iff.mpr fun hb => by simp [isManagement_of_isBus hb] at hm
  simp [check, legal_of_not_bus s.cfg hb, wrongPort, hm, unacquired]

/-- R204 on an acquired handle port: a legal handle command meets its own checks alone. -/
theorem check_handle {s : State} {p : PortId} {i : Instr} {ws : List Byte} (hl : i.legal s.cfg ws = true)
    (hm : i.isManagement = false) (ha : p.val < s.nextHandle.toNat) :
    check s (.handle p) ws i = checkCommand s (.handle p) i := by
  simp [check, hl, wrongPort, hm, unacquired_handle.mpr ha]

theorem check_notAcquired {s : State} {p : PortId} {i : Instr} {ws : List Byte} (hl : i.legal s.cfg ws = true)
    (hm : i.isManagement = false) (ha : ¬ p.val < s.nextHandle.toNat) : check s (.handle p) ws i = .notAcquired := by
  simp [check, hl, wrongPort, hm, unacquired, State.acquired, ha]

/-! ## Refused commands -/

theorem exec_refused_m {s : State} {i : Instr} {cw : Word} {ws : List Byte} {st : Status}
    (hd : s.due = .accept .m ⟨cw, ws⟩) (hc : check s .m ws i = st) (hst : st ≠ .ok) :
    exec i s = .next (afterSubmitM s ⟨st.code.setWidth 32, none⟩) := by
  subst hc
  rw [exec_refused hd hst, raise_latch_m]

theorem exec_refused_handle {s : State} {p : PortId} {i : Instr} {cw : Word} {ws : List Byte} {st : Status}
    (hd : s.due = .accept (.handle p) ⟨cw, ws⟩) (hl : i.legal s.cfg ws = true) (hc : check s (.handle p) ws i = st)
    (hst : st ≠ .ok) :
    exec i s = .next (afterSubmit s p cw ws ((s.port p).doneWith ⟨st.code.setWidth 32, none⟩)) := by
  subst hc
  rw [exec_refused hd hst, raise_latch_handle_eq_afterSubmit, List.take_of_length_le (legal_lane_length_le hl)]

/-- Settles O19: each command is refused with the status of its first failing check. -/
theorem immediateCommandsFailFast : Obligations.ImmediateCommandsFailFast := by
  unfold Obligations.ImmediateCommandsFailFast
  refine fun s cw => ⟨fun hd => ⟨fun hp => ?_, fun hp hn => ?_, fun hb => ?_, fun hp => ?_⟩,
    fun p a hd => ⟨fun ha => ?_, fun ha hb => ?_⟩⟩
  · exact exec_refused_m (st := .phase) hd ((check_m s rfl).trans (by simp [checkCommand, hp])) (by decide)
  · exact exec_refused_m (st := .handlesExhausted) hd ((check_m s rfl).trans (by simp [checkCommand, hp, hn])) (by decide)
  · exact exec_refused_m (st := .busTaken) hd ((check_m s rfl).trans (by simp [checkCommand, hb])) (by decide)
  · exact exec_refused_m (st := .phase) hd ((check_m s rfl).trans (by simp [checkCommand, hp])) (by decide)
  · have hl : (Instr.bind a).legal s.cfg [] = true := legal_of_not_bus s.cfg rfl
    exact exec_refused_handle hd hl (check_notAcquired hl rfl ha) (by decide)
  · have hl : (Instr.bind a).legal s.cfg [] = true := legal_of_not_bus s.cfg rfl
    refine exec_refused_handle (st := .alreadyBound) hd hl ?_ (by decide)
    simp [check_handle hl rfl ha, checkCommand, portBound, hb]

/-! ## Accepted commands -/

theorem runImmediate_accepted {s : State} {q : PortRef} {sub : Submission} {i : Instr}
    {effect : PortRef → State → State × Result} (hd : s.due = .accept q sub) (hc : check s q sub.ws i = .ok) :
    runImmediate i effect s =
      .next (complete q .ok 0 (effect q (latch q sub s)).2 (effect q (latch q sub s)).1) := by
  simp [runImmediate, hd, hc]

/-- R112: the response of ACQUIRE carries the handle in BYTE. -/
theorem response_handle (n : BitVec 5) :
    response .ok 0 (Result.ofByte (n.setWidth 8)) = ⟨n.setWidth 32 <<< 16, none⟩ := by
  have h : (n.setWidth 8).setWidth 32 = n.setWidth 32 := by
    exact BitVec.eq_of_toNat_eq (by simp)
  rw [← h, ← responseWord_byte]
  rfl

/-- Settles O16: the checks pass, and the response carries the old NEXT_HANDLE. -/
theorem acquireGivesTheNextHandle : Obligations.AcquireGivesTheNextHandle := by
  unfold Obligations.AcquireGivesTheNextHandle
  intro s cw hd hp hn
  have hc : check s .m [] .acquire = .ok :=
    (check_m s rfl).trans (checkCommand_acquire.mpr ⟨hp, hn⟩)
  have hexec : exec .acquire s = _ := runImmediate_accepted (effect := acquireEffect) hd hc
  rw [hexec, ← response_handle]
  rfl

/-- Settles O17: the check passes, and the response is OK alone. -/
theorem takeBusTakesTheBus : Obligations.TakeBusTakesTheBus := by
  unfold Obligations.TakeBusTakesTheBus
  intro s cw hd hb
  have hc : check s .m [] .takeBus = .ok := (check_m s rfl).trans (checkCommand_takeBus.mpr hb)
  have hexec : exec .takeBus s = _ := runImmediate_accepted (effect := takeBusEffect) hd hc
  rw [hexec]
  simp only [complete, takeBusEffect, response_empty]
  rfl

/-- Settles O18: the check passes, and the response is OK alone. -/
theorem runBeginsNormalOperation : Obligations.RunBeginsNormalOperation := by
  unfold Obligations.RunBeginsNormalOperation
  intro s cw hd hp
  have hc : check s .m [] .run = .ok := (check_m s rfl).trans (checkCommand_run.mpr hp)
  have hexec : exec .run s = _ := runImmediate_accepted (effect := runEffect) hd hc
  rw [hexec]
  simp only [complete, runEffect, response_empty]
  rfl

/-- R101: a bus command that passes its checks starts. -/
theorem runBus_accepted {s : State} {q : PortRef} {sub : Submission} {i : Instr}
    {plan : Config → PortState → Option (List Xfer)} {result : Config → List Byte → Option Result}
    (hd : s.due = .accept q sub) (hc : check s q sub.ws i = .ok) :
    runBus i plan result s = .next (startBus q (latch q sub s)) := by
  simp [runBus, hd, hc]

/-- Settles O21: every check passes, and the port starts with its word and whole lane latched. -/
theorem busCommandWaitsForTheLock : Obligations.BusCommandWaitsForTheLock := by
  unfold Obligations.BusCommandWaitsForTheLock
  intro s p i cw ws hb hd hl ha ho hbound
  have hc : check s (.handle p) ws i = .ok := by
    rw [check_handle hl (isManagement_of_isBus hb) ha, checkCommand_bus hb]
    exact ⟨hbound, ho⟩
  rw [exec_bus hb, runBus_accepted hd hc, startBus_latch hc]
  rfl

end Sys2Proof.Machine
end

section
/-! # The grant step and the round-robin order

The reference policy is described by `roundRobinDistance`: the port granted is the waiting port of least distance, and a grant to
another port shortens the distance of every port that was no nearer. -/

namespace Sys2Proof.Machine

/-! ## The grant step -/

theorem waiting_iff {s : State} {p : PortId} : s.waiting p = true ↔ p.val < s.cfg.h ∧ (s.port p).pst = .wait := by
  simp [State.waiting, present_iff]

/-- R102: the port the policy chooses gets the lock and the bus. -/
theorem step_grant {s : State} {c p : PortId} {ts : List Turn} (ht : s.turns = .arbiter c :: ts) (hl : s.lock = none)
    (hc : arbChoice c s = some p) :
    step s = .next
      { s with
        turns := ts, lock := some p, arbLast := p,
        ports := s.ports.set p.val { s.port p with pst := .bus } } := by
  simp [step, ht, grant, hl, hc, State.setPort, passTurn_eq ht]

/-- R102: with the lock held, or no port chosen, the arbiter's turn passes. -/
theorem step_arbiter_waits {s : State} {c : PortId} {ts : List Turn} (ht : s.turns = .arbiter c :: ts)
    (h : s.lock ≠ none ∨ arbChoice c s = none) : step s = .next { s with turns := ts } := by
  have hgrant : grant c s = s.passTurn := by
    rcases grant_cases c s with h' | ⟨p, hl, hc, -⟩
    · exact h'
    · simp [hl, hc] at h
  simp [step, ht, hgrant, passTurn_eq ht]

/-- Settles O23: the open policy chooses the port its turn names, if that port waits. -/
theorem anyWaitingPortMayBeGranted : Obligations.AnyWaitingPortMayBeGranted := by
  unfold Obligations.AnyWaitingPortMayBeGranted
  intro s p ts ha ht hl hp hw
  exact step_grant ht hl (by simp [arbChoice, ha, waiting_iff.mpr ⟨hp, hw⟩])

/-- Settles O24: either policy chooses only a waiting port. -/
theorem noGrantWithoutAFreeLockAndAWaiter : Obligations.NoGrantWithoutAFreeLockAndAWaiter := by
  unfold Obligations.NoGrantWithoutAFreeLockAndAWaiter
  intro s c ts ht h
  refine step_arbiter_waits ht (h.imp_right fun hnone => ?_)
  refine Option.eq_none_iff_forall_ne_some.mpr fun p hp => ?_
  obtain ⟨hlt, hw⟩ := waiting_iff.mp (arbChoice_waiting hp)
  exact hnone p hlt hw

/-! ## The round-robin order -/

/-- The port k places after last + 1 (R111). -/
def roundRobinPort (s : State) (k : Nat) : PortId := Fin.ofNat 16 ((s.arbLast.val + 1 + k) % s.cfg.h)

theorem roundRobinChoice_eq (s : State) :
    roundRobinChoice s = ((List.range s.cfg.h).find? fun k => s.waiting (roundRobinPort s k)).map (roundRobinPort s) :=
  List.find?_map

section
variable {s : State} (hh : s.cfg.h ≤ 16) (hlast : s.arbLast.val < s.cfg.h)
include hlast

/-- The distance without its remainders: p counted from the port after the last one granted, around the end. -/
theorem roundRobinDistance_eq {p : PortId} (hp : p.val < s.cfg.h) :
    roundRobinDistance s p =
      if s.arbLast.val < p.val then p.val - s.arbLast.val - 1 else p.val + s.cfg.h - s.arbLast.val - 1 := by
  unfold roundRobinDistance
  generalize s.cfg.h = h at *
  obtain hlt | heq : s.arbLast.val + 1 < h ∨ s.arbLast.val + 1 = h := by omega
  · rw [Nat.mod_eq_of_lt hlt]
    split
    · rw [show p.val + h - (s.arbLast.val + 1) = p.val - s.arbLast.val - 1 + h by omega, Nat.add_mod_right,
        Nat.mod_eq_of_lt (by omega)]
    · rw [Nat.mod_eq_of_lt (by omega)]; omega
  · rw [heq, Nat.mod_self, Nat.sub_zero, Nat.add_mod_right, Nat.mod_eq_of_lt hp]
    split <;> omega

theorem roundRobinDistance_lt {p : PortId} (hp : p.val < s.cfg.h) : roundRobinDistance s p < s.cfg.h := by
  rw [roundRobinDistance_eq hlast hp]
  split <;> omega

theorem roundRobinDistance_injective {p q : PortId} (hp : p.val < s.cfg.h) (hq : q.val < s.cfg.h)
    (h : roundRobinDistance s p = roundRobinDistance s q) : p = q := by
  rw [roundRobinDistance_eq hlast hp, roundRobinDistance_eq hlast hq] at h
  refine Fin.ext ?_
  split at h <;> split at h <;> omega

include hh

theorem roundRobinPort_val (k : Nat) : (roundRobinPort s k).val = (s.arbLast.val + 1 + k) % s.cfg.h := by
  have : (s.arbLast.val + 1 + k) % s.cfg.h < s.cfg.h := Nat.mod_lt _ (by omega)
  exact Nat.mod_eq_of_lt (by omega)

/-- The port at the distance of p is p. -/
theorem roundRobinPort_distance {p : PortId} (hp : p.val < s.cfg.h) : roundRobinPort s (roundRobinDistance s p) = p := by
  refine Fin.ext ?_
  rw [roundRobinPort_val hh hlast, roundRobinDistance_eq hlast hp]
  split
  · rw [Nat.mod_eq_of_lt (by omega)]; omega
  · rw [show s.arbLast.val + 1 + (p.val + s.cfg.h - s.arbLast.val - 1) = p.val + s.cfg.h by omega, Nat.add_mod_right,
      Nat.mod_eq_of_lt hp]

theorem roundRobinDistance_port {k : Nat} (hk : k < s.cfg.h) : roundRobinDistance s (roundRobinPort s k) = k := by
  have hval := roundRobinPort_val hh hlast k
  rw [roundRobinDistance_eq hlast (hval ▸ Nat.mod_lt _ (by omega)), hval]
  obtain hlt | hge := Nat.lt_or_ge (s.arbLast.val + 1 + k) s.cfg.h
  · rw [Nat.mod_eq_of_lt hlt, if_pos (by omega)]; omega
  · rw [Nat.mod_eq_sub_mod hge, Nat.mod_eq_of_lt (by omega), if_neg (by omega)]; omega

theorem exists_roundRobinChoice {p : PortId} (hp : s.waiting p = true) : ∃ g, roundRobinChoice s = some g := by
  have hlt := (waiting_iff.mp hp).1
  refine Option.isSome_iff_exists.mp (List.find?_isSome.mpr ⟨p, List.mem_map.mpr ⟨roundRobinDistance s p, ?_, ?_⟩, hp⟩)
  · exact List.mem_range.mpr (roundRobinDistance_lt hlast hlt)
  · exact roundRobinPort_distance hh hlast hlt

/-- R111: no waiting port is nearer than the one chosen. -/
theorem roundRobinChoice_nearest {g q : PortId} (hg : roundRobinChoice s = some g) (hq : s.waiting q = true) :
    roundRobinDistance s g ≤ roundRobinDistance s q := by
  obtain ⟨k, hk, rfl⟩ := Option.map_eq_some_iff.mp (roundRobinChoice_eq s ▸ hg)
  obtain ⟨-, hmem, hfirst⟩ := List.find?_range_eq_some.mp hk
  rw [roundRobinDistance_port hh hlast (List.mem_range.mp hmem)]
  by_contra hlt
  have hnot := hfirst (roundRobinDistance s q) (by omega)
  rw [roundRobinPort_distance hh hlast (waiting_iff.mp hq).1, hq] at hnot
  exact absurd hnot (by decide)

/-- R111: the waiting port of least distance is chosen. -/
theorem roundRobinChoice_of_nearest {p : PortId} (hp : s.waiting p = true)
    (hmin : ∀ q, s.waiting q = true → roundRobinDistance s p ≤ roundRobinDistance s q) : roundRobinChoice s = some p := by
  obtain ⟨g, hg⟩ := exists_roundRobinChoice hh hlast hp
  have hw := roundRobinChoice_waiting hg
  have heq : roundRobinDistance s g = roundRobinDistance s p :=
    Nat.le_antisymm (roundRobinChoice_nearest hh hlast hg hp) (hmin g hw)
  rw [hg, roundRobinDistance_injective hlast (waiting_iff.mp hw).1 (waiting_iff.mp hp).1 heq]

end

theorem arbChoice_roundRobin {s : State} (ha : s.cfg.arb = .roundRobin) (c : PortId) :
    arbChoice c s = roundRobinChoice s := by
  simp [arbChoice, ha]

/-- Settles O25: no other waiting port comes before the waiting port of least distance. -/
theorem roundRobinGrantsTheFirstWaiter : Obligations.RoundRobinGrantsTheFirstWaiter := by
  unfold Obligations.RoundRobinGrantsTheFirstWaiter
  intro s c p ts hwf ha hlast ht hl hp hw hmin
  obtain ⟨⟨-, hh⟩, -⟩ := hwf
  refine step_grant ht hl ((arbChoice_roundRobin ha c).trans ?_)
  refine roundRobinChoice_of_nearest hh hlast (waiting_iff.mpr ⟨hp, hw⟩) fun q hq => ?_
  obtain ⟨hlt, hqw⟩ := waiting_iff.mp hq
  exact hmin q hlt hqw

/-! ## The wait for a grant -/

/-- The distance reads H and the port granted last alone. -/
theorem roundRobinDistance_congr {s t : State} (hc : t.cfg = s.cfg) (hl : t.arbLast = s.arbLast) (p : PortId) :
    roundRobinDistance t p = roundRobinDistance s p := by
  simp [roundRobinDistance, hc, hl]

/-- A grant to another port that was no further away brings p nearer. -/
theorem roundRobinDistance_after_grant {s t : State} {g p : PortId} (hlast : s.arbLast.val < s.cfg.h)
    (hg : g.val < s.cfg.h) (hp : p.val < s.cfg.h) (hc : t.cfg = s.cfg) (hl : t.arbLast = g) (hne : g ≠ p)
    (hle : roundRobinDistance s g ≤ roundRobinDistance s p) : roundRobinDistance t p < roundRobinDistance s p := by
  have hne' : g.val ≠ p.val := fun h => hne (Fin.ext h)
  rw [roundRobinDistance_eq hlast hg, roundRobinDistance_eq hlast hp] at hle
  rw [roundRobinDistance_eq hlast hp, roundRobinDistance_eq (s := t) (by rw [hl, hc]; exact hg) (hc ▸ hp), hl, hc]
  split_ifs at hle ⊢ <;> omega

/-- R111: but for a grant and a reset no step changes the port granted last. -/
theorem Move.arbLast_eq {s t : State} (h : Move s t) (hg : (∀ c ts, s.turns ≠ .arbiter c :: ts) ∨ s.lock ≠ none)
    (hr : ∀ ts, s.turns ≠ .reset :: ts) : t.arbLast = s.arbLast := by
  cases h with
  | reset ts ht => exact absurd ht (hr ts)
  | grant c p ts ht hl => exact hg.elim (fun hg => absurd ht (hg c ts)) (absurd hl)
  | rest | pass | takeM | take | illegal | refuse | acquire | takeBus | run | bind | accept | abort | again | finish =>
    simp

/-- Settles O26: the port granted is the nearest of those that wait, so p or one that p comes nearer by. -/
theorem roundRobinWaitIsBounded : Obligations.RoundRobinWaitIsBounded := by
  unfold Obligations.RoundRobinWaitIsBounded
  intro s p hwf ha hlast hp hw
  obtain ⟨⟨-, hh⟩, -⟩ := hwf
  have hpw : s.waiting p = true := waiting_iff.mpr ⟨hp, hw⟩
  refine ⟨Nat.le_sub_one_of_lt (roundRobinDistance_lt hlast hp), fun c ts ht hl => ?_, fun t h hg hr => ?_⟩
  · obtain ⟨g, hg⟩ := exists_roundRobinChoice hh hlast hpw
    refine ⟨g, _, step_grant ht hl ((arbChoice_roundRobin ha c).trans hg), rfl, ?_⟩
    refine or_iff_not_imp_left.mpr fun hne => ?_
    exact roundRobinDistance_after_grant hlast (waiting_iff.mp (roundRobinChoice_waiting hg)).1 hp rfl rfl hne
      (roundRobinChoice_nearest hh hlast hg hpw)
  · exact roundRobinDistance_congr (step_move h).cfg_eq ((step_move h).arbLast_eq hg hr) p

end Sys2Proof.Machine
end

section
/-! # Perform steps and taking a response, forwards -/

namespace Sys2Proof.Machine

/-! ## One transaction of a bus command -/

section
variable {s : State} {p : PortId} {i : Instr} {xs : List Xfer} {x : Xfer}

theorem exec_perform {o : ChanOutcome} (hb : i.isBus = true) (hd : s.due = .perform p o)
    (hxs : planOf s.cfg (s.port p) i = some xs) :
    exec i s = perform (some xs) (fun rb => resultOf s.cfg rb i) p o s := by
  simp [exec_bus hb, runBus, hd, hxs]

/-- R104, with transactions left. -/
theorem exec_ok_again {rs : List Byte} (hb : i.isBus = true) (hd : s.due = .perform p (.ok rs))
    (hxs : planOf s.cfg (s.port p) i = some xs) (hx : xs[(s.port p).step.toNat]? = some x) (hl : rs.length = x.m)
    (hn : (s.port p).step.toNat + 1 < xs.length) :
    exec i s = .next (afterTransaction s p x (.ok rs)
      { s.port p with rbuf := (s.port p).rbuf ++ rs, step := (s.port p).step + 1, pst := .wait }) := by
  have hn' : ((s.port p).step + 1).toNat < xs.length := by
    rwa [step_succ (Nat.lt_of_succ_lt hn) (planOf_length_le hxs)]
  rw [exec_perform hb hd hxs, perform_ok hx hl, continueAfterOk_again (s := s.performed p x (.ok rs)) hn']
  rfl

/-- R104, after the last transaction. -/
theorem exec_ok_finish {rs : List Byte} {r : Result} (hb : i.isBus = true) (hd : s.due = .perform p (.ok rs))
    (hxs : planOf s.cfg (s.port p) i = some xs) (hx : xs[(s.port p).step.toNat]? = some x) (hl : rs.length = x.m)
    (hn : (s.port p).step.toNat + 1 = xs.length) (hr : resultOf s.cfg ((s.port p).rbuf ++ rs) i = some r) :
    exec i s = .next (afterTransaction s p x (.ok rs)
      { (s.port p).doneWith (response r.status 0 r) with
        rbuf := (s.port p).rbuf ++ rs, step := (s.port p).step + 1 }) := by
  have hn' : ¬ ((s.port p).step + 1).toNat < xs.length := by
    rw [step_succ (Nat.lt_of_succ_le hn.le) (planOf_length_le hxs)]
    exact hn.not_lt
  rw [exec_perform hb hd hxs, perform_ok hx hl, continueAfterOk_finish (s := s.performed p x (.ok rs)) hn' hr]
  rfl

/-- R105: the response carries the status of the phase and the failing step. -/
theorem exec_err {ph : XferPhase} (hb : i.isBus = true) (hd : s.due = .perform p (.err ph))
    (hxs : planOf s.cfg (s.port p) i = some xs) (hx : xs[(s.port p).step.toNat]? = some x)
    (ha : x.admits (.err ph) = true) :
    exec i s = .next (afterTransaction s p x (.err ph)
      ((s.port p).doneWith ⟨responseWord (transportStatus ph) (s.port p).step 0#8 0#3, none⟩)) := by
  rw [exec_perform hb hd hxs, perform_err hx ha]
  rfl

end

/-- Settles O34, by the two ways a plan goes on after an Ok. -/
theorem okTransactionAdvancesThePlan : Obligations.OkTransactionAdvancesThePlan := by
  unfold Obligations.OkTransactionAdvancesThePlan
  exact fun s p i xs x rs hb hd hxs _ hx hl =>
    ⟨fun hn => exec_ok_again hb hd hxs hx hl hn, fun r hn hr => exec_ok_finish hb hd hxs hx hl hn hr⟩

/-- Settles O35: R109 admits the error, whose status and step are the response word. -/
theorem failedTransactionEndsTheCommand : Obligations.FailedTransactionEndsTheCommand := by
  unfold Obligations.FailedTransactionEndsTheCommand
  refine fun s p i xs x hb hxs hx => ⟨fun hd hw => ?_, fun hd hm => ?_⟩
  · have ha : x.admits (.err .write) = true := by simpa [Xfer.admits, Nat.one_le_iff_ne_zero] using hw
    rw [exec_err hb hd hxs hx ha, ← responseWord_writeError]
    rfl
  · have ha : x.admits (.err .read) = true := by simpa [Xfer.admits, Nat.one_le_iff_ne_zero] using hm
    rw [exec_err hb hd hxs hx ha, ← responseWord_readError]
    rfl

/-! ## TRANSACT and READ_SAMPLE -/

/-- A plan of one transaction, answered Ok, completes its command with the result of the bytes just read. -/
theorem exec_single_ok {s : State} {p : PortId} {i : Instr} {x : Xfer} {rs : List Byte} {r : Result} (hb : i.isBus = true)
    (hd : s.due = .perform p (.ok rs)) (hxs : planOf s.cfg (s.port p) i = some [x]) (hstep : (s.port p).step = 0)
    (hbuf : (s.port p).rbuf = []) (hl : rs.length = x.m) (hr : resultOf s.cfg rs i = some r) :
    exec i s = .next (afterTransaction s p x (.ok rs)
      { (s.port p).doneWith (response r.status 0 r) with step := 1, rbuf := rs }) := by
  rw [exec_ok_finish hb hd hxs (by simp [hstep]) hl (by simp [hstep]) (by simpa [hbuf] using hr)]
  simp [hstep, hbuf]

/-- R86: an OK result without BYTE and RSET has the response word 0. -/
theorem response_payload (payload : Option Payload) :
    response .ok 0 ⟨.ok, 0#8, 0#3, payload⟩ = ⟨0x00000000#32, payload⟩ :=
  congrArg (Response.mk · payload) (responseWord_status .ok)

/-- Settles O27: the plan of TRANSACT is one transaction, and its result is the read buffer. -/
theorem transactReturnsTheBytesRead : Obligations.TransactReturnsTheBytesRead := by
  unfold Obligations.TransactReturnsTheBytesRead
  intro s p a n m ws rs hd hw hstep hbuf hl
  have hxs : planOf s.cfg (s.port p) (.transact a n m) = some [⟨a, ws, m.toNat⟩] := by simp [planOf, planTransact, hw]
  rw [exec_single_ok rfl hd hxs hstep hbuf hl rfl, response_payload]

theorem planOf_readSample (c : Config) (y : PortState) :
    planOf c y .readSample = some ((c.sampleRegs ++ [c.regCfg]).map (memRead (devAddr c y.asel))) := rfl

/-- Settles O32: the first six transactions of the plan read the sample offsets, and one more follows them. -/
theorem readSampleReadsSixSampleBytes : Obligations.ReadSampleReadsSixSampleBytes := by
  unfold Obligations.ReadSampleReadsSixSampleBytes
  intro s p b off hd hoff
  have hlt : (s.port p).step.toNat < s.cfg.sampleRegs.length := (List.getElem?_eq_some_iff.mp hoff).1
  have hx : ((s.cfg.sampleRegs ++ [s.cfg.regCfg]).map (memRead (devAddr s.cfg (s.port p).asel)))[(s.port p).step.toNat]? =
      some (memRead (devAddr s.cfg (s.port p).asel) off) := by
    rw [List.getElem?_map, List.getElem?_append_left hlt, Config.sampleRegs, hoff]
    rfl
  rw [exec_ok_again rfl hd (planOf_readSample _ _) hx rfl (by simpa using hlt), memRead, devAddr_eq]

/-! ## Taking a response -/

theorem take_m_done {s : State} {r : Response} (hd : s.mst = .done) (hr : s.mrsp = some r) :
    take .m s =
      .next { s.passTurn with mst := .idle, mrsp := none, delivered := s.delivered ++ [(PortRef.m, r)] } := by
  simp [take, hd, hr]

theorem take_handle_done {s : State} {p : PortId} {r : Response} (hp : p.val < s.cfg.h) (hd : (s.port p).pst = .done)
    (hr : (s.port p).rsp = some r) :
    take (.handle p) s = .next ({ s.passTurn with delivered := s.delivered ++ [(PortRef.handle p, r)] }.setPort p
      { s.port p with pst := .idle, cmd := none, wd := none, rsp := none }) := by
  simp [take, present_iff.mpr hp, hd, hr]

theorem take_m_waits {s : State} (hd : s.mst ≠ .done) : take .m s = .next s.passTurn := by
  simp [take, hd]

theorem take_handle_waits {s : State} {p : PortId} (hd : (s.port p).pst ≠ .done) :
    take (.handle p) s = .next s.passTurn := by
  simp [take, hd]

theorem step_take {s : State} {q : PortRef} {ts : List Turn} (ht : s.turns = .take q :: ts) : step s = take q s := by
  simp [step, ht]

/-- Settles O37: a take step delivers on a DONE port and passes on any other. -/
theorem takeDeliversTheResponseOnce : Obligations.TakeDeliversTheResponseOnce := by
  unfold Obligations.TakeDeliversTheResponseOnce
  refine fun s ts => ⟨fun r ht hd hr => ?_, fun p r ht hp hd hr => ?_, fun ht hi => ?_, fun p ht hd => ?_⟩
  · rw [step_take ht, take_m_done hd hr, passTurn_eq ht]
  · rw [step_take ht, take_handle_done hp hd hr, passTurn_eq ht]
    rfl
  · rw [step_take ht, take_m_waits (by simp [hi]), passTurn_eq ht]
  · rw [step_take ht, take_handle_waits hd, passTurn_eq ht]

end Sys2Proof.Machine
end

section
/-! # The register protocol: single registers and samples -/

namespace Sys2Proof.Machine

/-! ## READ_REG and WRITE_REG -/

/-- Settles O28: the plan of READ_REG is one MemRead, and BYTE is the byte it reads. -/
theorem readRegReturnsTheByteRead : Obligations.ReadRegReturnsTheByteRead := by
  unfold Obligations.ReadRegReturnsTheByteRead
  intro s p a r b hd hstep hbuf
  have hxs : planOf s.cfg (s.port p) (.readReg a r) = some [memRead a r] := rfl
  have hr : resultOf s.cfg [b] (.readReg a r) = some (Result.ofByte b) := rfl
  rw [exec_single_ok rfl hd hxs hstep hbuf rfl hr, ← responseWord_byte]
  rfl

/-- Settles O29: the plan of WRITE_REG is one MemWrite, and its result is OK alone. -/
theorem writeRegWritesOffsetThenValue : Obligations.WriteRegWritesOffsetThenValue := by
  unfold Obligations.WriteRegWritesOffsetThenValue
  intro s p a r v hd hstep hbuf
  have hxs : planOf s.cfg (s.port p) (.writeReg a r v) = some [memWrite a r v] := rfl
  have hr : resultOf s.cfg [] (.writeReg a r v) = some Result.empty := rfl
  rw [exec_single_ok rfl hd hxs hstep hbuf rfl hr, memWrite, Result.empty, response_payload]

/-! ## Sample assembly -/

/-- R133, the two's-complement reading: the high byte carries the sign. -/
theorem assemble16_toInt (lo hi : Byte) :
    (assemble16 lo hi).toInt =
      if hi.toNat < 0x80 then (hi.toNat * 256 + lo.toNat : Int) else hi.toNat * 256 + lo.toNat - 65536 := by
  have := lo.isLt
  rw [BitVec.toInt_eq_toNat_cond, assemble16_toNat]
  split_ifs <;> omega

/-- Settles O55: the value from `assemble16_toInt`, the bytes from the two halves of the append. -/
theorem sampleAssemblyIsLittleEndian : Obligations.SampleAssemblyIsLittleEndian := by
  unfold Obligations.SampleAssemblyIsLittleEndian
  refine fun lo hi => ⟨rfl, BitVec.extractLsb'_append_eq_right, BitVec.extractLsb'_append_eq_left, fun h => ?_, fun h => ?_⟩
  · rw [assemble16_toInt, if_pos h]
  · rw [assemble16_toInt, if_neg h.not_gt]

/-! ## The range of a sample -/

/-- R86: an OK result that carries RSET alone. -/
theorem responseWord_rset (rset : BitVec 3) : responseWord .ok 0 0#8 rset = rset.setWidth 32 <<< 24 := by
  revert rset; decide

/-- R89, R90, R182: the full scale of each listed setting, its binary32 pattern and the word of its RSET code. -/
theorem settings_encoded : ∀ e ∈ settings, fullScale e.1 = some e.2.2.2 ∧ fullScaleWord e.2.2.2 = e.2.2.1 ∧
    (rsetCode e.1).setWidth 32 <<< 24 = e.2.1 := by decide

theorem exists_setting {rs : RangeSetting} (h : rs ≠ .unrecognized) : ∃ e ∈ settings, rs = e.1 := by
  cases rs with
  | unrecognized => exact absurd rfl h
  | fs2 | fs4 | fs8 | fs16 => decide

/-- R185: the setting of the range byte scales all three axes, and its codes are in the response. -/
theorem response_sampleResult {c : Config} {b : Byte} {e : RangeSetting × Word × Word × Nat} (he : e ∈ settings)
    (hb : decodeRange c b = e.1) (x y z : Half) :
    response .ok 0 (sampleResult c x y z b) = ⟨e.2.1, some (.sample x y z (scale x.toInt e.2.2.2) (scale y.toInt e.2.2.2)
      (scale z.toInt e.2.2.2) e.2.2.1)⟩ := by
  obtain ⟨hf, hword, hcode⟩ := settings_encoded e he
  simp only [sampleResult, hb, hf, hword, response, responseWord_rset, hcode]

/-- The seventh transaction of READ_SAMPLE's plan reads the configuration register (R155). -/
theorem readSample_last_transaction (c : Config) (addr : Addr7) :
    ((c.sampleRegs ++ [c.regCfg]).map (memRead addr))[(6 : BitVec 3).toNat]? = some (memRead addr c.regCfg) := rfl

/-- Settles O33: the plan ends with the configuration register, whose byte decodes to a listed setting. -/
theorem readSampleScalesWithTheFreshRange : Obligations.ReadSampleScalesWithTheFreshRange := by
  unfold Obligations.ReadSampleScalesWithTheFreshRange
  intro s p xl xh yl yh zl zh b hwf hd hstep hbuf
  obtain ⟨e, he, hb⟩ := exists_setting (decodeRange_ne_unrecognized hwf b)
  refine ⟨e, he, hb, ?_⟩
  have hr : resultOf s.cfg ((s.port p).rbuf ++ [b]) .readSample =
      some (sampleResult s.cfg (xh ++ xl) (yh ++ yl) (zh ++ zl) b) := by rw [hbuf]; rfl
  rw [exec_ok_finish rfl hd (planOf_readSample _ _) (hstep ▸ readSample_last_transaction _ _) rfl (by rw [hstep]; rfl) hr,
    (sampleResult_ok hwf _ _ _ _).1, response_sampleResult he hb, memRead, devAddr_eq, hstep, hbuf]
  rfl

end Sys2Proof.Machine
end

section
/-! # The driver commands BIND, READ_ID and READ_RANGE -/

namespace Sys2Proof.Machine

/-! ## BIND -/

/-- Settles O20: the checks of BIND ask for an acquired and unbound port alone, and its response is OK alone. -/
theorem bindBindsTheSubmittingPort : Obligations.BindBindsTheSubmittingPort := by
  unfold Obligations.BindBindsTheSubmittingPort
  intro s p cw a hd ha hb
  have hl : (Instr.bind a).legal s.cfg [] = true := legal_of_not_bus s.cfg rfl
  have hc : check s (.handle p) [] (.bind a) = .ok := (check_handle hl rfl ha).trans (checkCommand_bind.mpr hb)
  have hexec : exec (.bind a) s = _ := runImmediate_accepted (effect := bindEffect a) hd hc
  rw [hexec, bindEffect_latch hc, response_empty]
  rfl

/-! ## READ_ID and READ_RANGE -/

/-- A driver command whose plan is one MemRead at the bound address completes with the result of the byte it reads (R152). -/
theorem exec_single_memRead {s : State} {p : PortId} {i : Instr} {off b : Byte} {r : Result} (hb : i.isBus = true)
    (hd : s.due = .perform p (.ok [b])) (hstep : (s.port p).step = 0) (hbuf : (s.port p).rbuf = [])
    (hxs : planOf s.cfg (s.port p) i = some [memRead (devAddr s.cfg (s.port p).asel) off])
    (hr : resultOf s.cfg [b] i = some r) :
    exec i s = .next (afterTransaction s p
      ⟨if (s.port p).asel = 0#1 then s.cfg.devAddr0 else s.cfg.devAddr1, [off], 1⟩ (.ok [b])
      { (s.port p).doneWith (response r.status 0 r) with step := 1, rbuf := [b] }) := by
  rw [exec_single_ok hb hd hxs hstep hbuf rfl hr, memRead, devAddr_eq]

/-- R157: an OK result that carries a byte, whatever the byte is. -/
theorem response_ofByte (b : Byte) : response .ok 0 (Result.ofByte b) = ⟨b.setWidth 32 <<< 16, none⟩ :=
  congrArg (Response.mk · none) (responseWord_byte b)

/-- Settles O30: the plan of READ_ID reads the identity register, and its result is the byte, unexamined. -/
theorem readIdReturnsTheByteRead : Obligations.ReadIdReturnsTheByteRead := by
  unfold Obligations.ReadIdReturnsTheByteRead
  intro s p b hd hstep hbuf
  have hr : resultOf s.cfg [b] .readId = some (Result.ofByte b) := rfl
  rw [exec_single_memRead rfl hd hstep hbuf rfl hr, ← response_ofByte]
  rfl

/-- R154: the codes of the range byte's setting are in the response. -/
theorem response_rangeResult {c : Config} {b : Byte} {e : RangeSetting × Word × Word × Nat} (he : e ∈ settings)
    (hb : decodeRange c b = e.1) : response .ok 0 (rangeResult c b) = ⟨e.2.1, some (.fs e.2.2.1)⟩ := by
  obtain ⟨hf, hword, hcode⟩ := settings_encoded e he
  simp only [rangeResult, hb, hf, hword, response, responseWord_rset, hcode]

/-- Settles O31: the plan of READ_RANGE reads the configuration register, whose byte decodes to a listed setting. -/
theorem readRangeReportsTheSetting : Obligations.ReadRangeReportsTheSetting := by
  unfold Obligations.ReadRangeReportsTheSetting
  intro s p b hwf hd hstep hbuf
  obtain ⟨e, he, hb⟩ := exists_setting (decodeRange_ne_unrecognized hwf b)
  have hr : resultOf s.cfg [b] .readRange = some (rangeResult s.cfg b) := rfl
  refine ⟨e, he, hb, ?_⟩
  rw [exec_single_memRead rfl hd hstep hbuf rfl hr, (rangeResult_ok hwf b).1, response_rangeResult he hb]

end Sys2Proof.Machine
end

section
/-! # The Range Decoder

The decoder is the table of R6 indexed by the two bits at RANGE_LSB (R181). A legal table lists the four settings once each, so
the bytes of one setting are the bytes of one field code. -/

namespace Sys2Proof.Machine

/-- R181: the entry the decoder reads. -/
theorem rangeTable_getElem?_field (c : Config) (b : Byte) :
    c.rangeTable[b.toNat / 2 ^ c.rangeLsb % 4]? = some (decodeRange c b) := by
  rw [← rangeField_toNat]
  exact Vector.getElem?_eq_getElem (rangeField c b).isLt

/-- R6: a legal table lists each of the four settings. -/
theorem mem_rangeTable {c : Config} (hc : c.wf) {rs : RangeSetting} (h : rs ≠ .unrecognized) : rs ∈ c.rangeTable.toList := by
  obtain ⟨-, -, -, -, -, hnodup, hrec, -⟩ := hc
  have hsub : c.rangeTable.toList ⊆ [.fs2, .fs4, .fs8, .fs16] := by
    intro x hx
    cases x with
    | unrecognized => exact absurd hx hrec
    | fs2 | fs4 | fs8 | fs16 => simp
  have hperm := (hnodup.subperm hsub).perm_of_length_le (by simp)
  rw [hperm.mem_iff]
  cases rs with
  | unrecognized => exact absurd rfl h
  | fs2 | fs4 | fs8 | fs16 => simp

/-- R181: under a legal table the bytes of one setting are the bytes of one field code. -/
theorem exists_code_of_setting {c : Config} (hc : c.wf) {rs : RangeSetting} (h : rs ≠ .unrecognized) :
    ∃ i < 4, ∀ b : Byte, decodeRange c b = rs ↔ b.toNat / 2 ^ c.rangeLsb % 4 = i := by
  obtain ⟨i, hi, rfl⟩ := List.mem_iff_getElem.mp (mem_rangeTable hc h)
  obtain ⟨-, -, -, -, -, hnodup, -⟩ := hc
  refine ⟨i, by simpa using hi, fun b => ?_⟩
  rw [← Option.some_inj, ← rangeTable_getElem?_field, ← Vector.getElem?_toList, ← List.getElem?_eq_getElem hi, eq_comm,
    List.getElem?_inj hi hnodup, eq_comm]

/-- Two adjacent bits of a byte have each of their four values in 64 of the 256 bytes. -/
theorem bytes_of_code : ∀ l ≤ 6, ∀ i < 4, ((List.range 256).filter fun n => decide (n / 2 ^ l % 4 = i)).length = 64 := by
  decide

/-- Settles O56: each setting has one field code, and each field code 64 bytes. -/
theorem rangeDecoderIsTotalAndEven : Obligations.RangeDecoderIsTotalAndEven := by
  unfold Obligations.RangeDecoderIsTotalAndEven
  refine ⟨by decide, by decide, by decide, fun c hc => ?_⟩
  refine ⟨rangeTable_getElem?_field c, decodeRange_ne_unrecognized hc, fun rs hrs => ?_⟩
  obtain ⟨i, hi, hcode⟩ := exists_code_of_setting hc hrs
  obtain ⟨-, -, -, -, hlsb, -⟩ := hc
  rw [← bytes_of_code _ hlsb i hi]
  refine congrArg List.length (List.filter_congr fun n hn => ?_)
  rw [decide_eq_decide, hcode, BitVec.toNat_ofNat, Nat.mod_eq_of_lt (List.mem_range.mp hn)]

end Sys2Proof.Machine
end

section
/-! # Rounding to binary32

R183 for a normal quotient. A positive n/d lies in one octave [2^(e - 126), 2^(e - 125)); the finite binary32 values there are the
multiples of 2^e in units of 2^-149, and `rne32Magnitude` picks the nearest of them. -/

namespace Sys2Proof.Machine

/-! ## The octave of a quotient -/

/-- How n/d compares with 2^a / 2^b depends on a - b alone. -/
theorem mul_two_pow_le_iff {n d a b a' b' : Nat} (h : a + b' = a' + b) :
    d * 2 ^ a ≤ n * 2 ^ b ↔ d * 2 ^ a' ≤ n * 2 ^ b' := by
  calc d * 2 ^ a ≤ n * 2 ^ b
      ↔ d * 2 ^ a * 2 ^ b' ≤ n * 2 ^ b * 2 ^ b' := (Nat.mul_le_mul_right_iff (by positivity)).symm
    _ ↔ d * 2 ^ a' * 2 ^ b ≤ n * 2 ^ b' * 2 ^ b := by
        rw [mul_assoc, ← pow_add, h, pow_add, ← mul_assoc, mul_right_comm n]
    _ ↔ d * 2 ^ a' ≤ n * 2 ^ b' := Nat.mul_le_mul_right_iff (by positivity)

/-- `ratioExponent` is the exponent of the octave of n/d. -/
theorem ratioExponent_eq {n d a b : Nat} (hd : 0 < d) (hlo : d * 2 ^ a ≤ n * 2 ^ b) (hhi : n * 2 ^ b < d * 2 ^ (a + 1)) :
    ratioExponent n d = a - b := by
  have hn : n ≠ 0 := by rintro rfl; simp [hd.ne'] at hlo
  have hlow : d.log2 + a < n.log2 + 1 + b := by
    refine (Nat.pow_lt_pow_iff_right Nat.one_lt_two).mp ?_
    calc 2 ^ (d.log2 + a) = 2 ^ d.log2 * 2 ^ a := pow_add ..
      _ ≤ d * 2 ^ a := Nat.mul_le_mul_right _ (Nat.log2_self_le hd.ne')
      _ ≤ n * 2 ^ b := hlo
      _ < 2 ^ (n.log2 + 1) * 2 ^ b := Nat.mul_lt_mul_of_pos_right Nat.lt_log2_self (by positivity)
      _ = 2 ^ (n.log2 + 1 + b) := (pow_add ..).symm
  have hhigh : n.log2 + b < d.log2 + 1 + (a + 1) := by
    refine (Nat.pow_lt_pow_iff_right Nat.one_lt_two).mp ?_
    calc 2 ^ (n.log2 + b) = 2 ^ n.log2 * 2 ^ b := pow_add ..
      _ ≤ n * 2 ^ b := Nat.mul_le_mul_right _ (Nat.log2_self_le hn)
      _ < d * 2 ^ (a + 1) := hhi
      _ ≤ 2 ^ (d.log2 + 1) * 2 ^ (a + 1) := Nat.mul_le_mul_right _ Nat.lt_log2_self.le
      _ = 2 ^ (d.log2 + 1 + (a + 1)) := (pow_add ..).symm
  unfold ratioExponent
  rcases (by omega : (a : Int) - b = n.log2 - d.log2 ∨ (a : Int) - b + 1 = n.log2 - d.log2) with h | h
  · rw [← h, if_neg]
    exact ((mul_two_pow_le_iff (by omega)).mp hlo).not_gt
  · rw [← h, if_pos]
    · simp
    · exact lt_of_not_ge fun hle => hhi.not_ge ((mul_two_pow_le_iff (by omega)).mp hle)

/-! ## The nearest integer to a quotient -/

theorem le_divNearestEven {n d a : Nat} (hd : 0 < d) (h : a * d ≤ n) : a ≤ divNearestEven n d := by
  have := (Nat.le_div_iff_mul_le hd).mpr h
  unfold divNearestEven
  split_ifs <;> omega

theorem divNearestEven_le {n d b : Nat} (hd : 0 < d) (h : n < b * d) : divNearestEven n d ≤ b := by
  have := (Nat.div_lt_iff_lt_mul hd).mpr h
  unfold divNearestEven
  split_ifs <;> omega

theorem divNearestEven_eq_or (n d : Nat) : divNearestEven n d = n / d ∨ divNearestEven n d = n / d + 1 := by
  unfold divNearestEven
  split_ifs <;> omega

/-- A rounded quotient half a unit away from the exact one is even. -/
theorem divNearestEven_even_of_half {n d : Nat} (hd : 0 < d) (h : 2 * ((divNearestEven n d : Int) * d - n).natAbs = d) :
    divNearestEven n d % 2 = 0 := by
  refine divNearestEven_tie ?_
  have hdiv : ((n / d : Nat) : Int) * d + (n % d : Nat) = n := by exact_mod_cast Nat.div_add_mod' n d
  have hmod := Nat.mod_lt n hd
  have hu := divNearestEven_eq_or n d
  generalize divNearestEven n d = u, n / d = q, n % d = r at *
  rcases hu with rfl | rfl
  · omega
  · rw [Nat.cast_succ, add_one_mul] at h
    omega

/-- No integer is nearer to n/d than the rounded quotient, and when another one is as near the rounded quotient is even. -/
theorem divNearestEven_nearest {n d : Nat} (hd : 0 < d) (q : Int) :
    ((divNearestEven n d : Int) * d - n).natAbs ≤ (q * d - n).natAbs ∧
    (((divNearestEven n d : Int) * d - n).natAbs = (q * d - n).natAbs → q ≠ divNearestEven n d →
      divNearestEven n d % 2 = 0) := by
  rcases eq_or_ne q (divNearestEven n d) with rfl | hq
  · exact ⟨le_rfl, fun _ h => absurd rfl h⟩
  have hclose : 2 * ((divNearestEven n d : Int) * d - n).natAbs ≤ d := by
    have h := divNearestEven_close (n := n) hd
    rw [mul_comm d] at h
    omega
  have hfar : d ≤ (q * d - divNearestEven n d * d).natAbs := by
    rw [← sub_mul, Int.natAbs_mul, Int.natAbs_natCast]
    exact Nat.le_mul_of_pos_left _ (by omega)
  exact ⟨by omega, fun heq _ => divNearestEven_even_of_half hd (by omega)⟩

/-! ## The finite binary32 values -/

theorem magnitudeUnits_eq (w : Word) : magnitudeUnits w =
    if w.toNat / 2 ^ 23 % 256 = 0 then w.toNat % 2 ^ 23
    else (2 ^ 23 + w.toNat % 2 ^ 23) * 2 ^ (w.toNat / 2 ^ 23 % 256 - 1) := by
  simp [magnitudeUnits, Nat.shiftRight_eq_div_pow]

/-- A finite binary32 value is a multiple of 2^e, or smaller than 2^(e + 23): the grid is finer only below. -/
theorem dvd_magnitudeUnits_or_lt (w : Word) (e : Nat) : 2 ^ e ∣ magnitudeUnits w ∨ magnitudeUnits w < 2 ^ 23 * 2 ^ e := by
  have hf : w.toNat % 2 ^ 23 < 2 ^ 23 := Nat.mod_lt _ (by norm_num)
  rw [magnitudeUnits_eq]
  generalize w.toNat % 2 ^ 23 = f, w.toNat / 2 ^ 23 % 256 = E at *
  split_ifs with h0
  · exact .inr (hf.trans_le (Nat.le_mul_of_pos_right _ (by positivity)))
  rcases le_or_gt e (E - 1) with he | he
  · exact .inl ((pow_dvd_pow 2 he).mul_left _)
  · right
    calc (2 ^ 23 + f) * 2 ^ (E - 1) < (2 ^ 23 * 2) * 2 ^ (E - 1) := Nat.mul_lt_mul_of_pos_right (by omega) (by positivity)
      _ = 2 ^ 23 * 2 ^ (E - 1 + 1) := by rw [mul_assoc, ← pow_succ']
      _ ≤ 2 ^ 23 * 2 ^ e := Nat.mul_le_mul_left _ (Nat.pow_le_pow_right (by norm_num) he)

theorem valueUnits_natAbs (w : Word) : (valueUnits w).natAbs = magnitudeUnits w := by
  unfold valueUnits
  split_ifs <;> simp

/-- The same, of the value of w and of its negation. -/
theorem dvd_or_lt_of_natAbs {w : Word} {z : Int} (hz : z.natAbs = (valueUnits w).natAbs) (e : Nat) :
    2 ^ e ∣ z ∨ z < 2 ^ 23 * 2 ^ e := by
  rw [valueUnits_natAbs] at hz
  rcases dvd_magnitudeUnits_or_lt w e with h | h
  · exact .inl (by exact_mod_cast Int.natCast_dvd.mpr (hz ▸ h))
  · exact .inr (lt_of_le_of_lt Int.le_natAbs (by exact_mod_cast hz ▸ h))

/-- The magnitude of a pattern with exponent field e + 1 and significand u, or of the next power of two. -/
theorem magnitudeUnits_normal {w : Word} {e u : Nat} (hw : w.toNat % 2 ^ 31 = e * 2 ^ 23 + u) (hlo : 2 ^ 23 ≤ u)
    (hhi : u ≤ 2 ^ 24) : magnitudeUnits w = u * 2 ^ e := by
  rw [magnitudeUnits_eq]
  rcases hhi.lt_or_eq with h | rfl
  · have hE : w.toNat / 2 ^ 23 % 256 = e + 1 := by omega
    have hF : 2 ^ 23 + w.toNat % 2 ^ 23 = u := by omega
    rw [hE, hF, if_neg (by omega), Nat.add_sub_cancel]
  · have hE : w.toNat / 2 ^ 23 % 256 = e + 2 := by omega
    have hF : w.toNat % 2 ^ 23 = 0 := by omega
    rw [hE, hF, if_neg (by omega), add_zero, show e + 2 - 1 = e + 1 from rfl, pow_succ']
    ring

/-! ## A quotient in a normal octave -/

/-- n/d lies in [2^(e - 126), 2^(e - 125)), where binary32 is normal and its grid is 2^(e - 149). -/
structure InOctave (n d e : Nat) : Prop where
  pos : 0 < d
  exponent : e ≤ 149
  lower : d * 2 ^ 23 ≤ n * 2 ^ (149 - e)
  upper : n * 2 ^ (149 - e) < d * 2 ^ 24

theorem InOctave.ne_zero {n d e : Nat} (h : InOctave n d e) : n ≠ 0 := by
  rintro rfl
  have := h.pos
  have := h.lower
  omega

theorem InOctave.gridExponent_eq {n d e : Nat} (h : InOctave n d e) : gridExponent n d = e - 126 := by
  have := h.exponent
  rw [gridExponent, ratioExponent_eq h.pos h.lower h.upper]
  omega

theorem InOctave.gridUnits_eq {n d e : Nat} (h : InOctave n d e) : gridUnits n d = divNearestEven (n * 2 ^ (149 - e)) d := by
  have := h.exponent
  rw [gridUnits, h.gridExponent_eq, show (23 - ((e : Int) - 126)).toNat = 149 - e by omega,
    show ((e : Int) - 126 - 23).toNat = 0 by omega, pow_zero, mul_one]

theorem InOctave.gridUnits_bounds {n d e : Nat} (h : InOctave n d e) : 2 ^ 23 ≤ gridUnits n d ∧ gridUnits n d ≤ 2 ^ 24 := by
  rw [h.gridUnits_eq]
  exact ⟨le_divNearestEven h.pos (by rw [mul_comm]; exact h.lower),
    divNearestEven_le h.pos (by rw [mul_comm (2 ^ 24)]; exact h.upper)⟩

theorem InOctave.rne32Magnitude_eq {n d e : Nat} (h : InOctave n d e) :
    rne32Magnitude n d = e * 2 ^ 23 + gridUnits n d := by
  have := h.exponent
  have := h.gridUnits_bounds
  rw [rne32Magnitude, if_neg h.ne_zero, h.gridExponent_eq, show ((e : Int) - 126 + 126).toNat = e by omega]
  omega

/-- A factor 2^k moves the octave by k. -/
theorem InOctave.mul_two_pow {n d e k : Nat} (h : InOctave n d e) (hk : e + k ≤ 149) : InOctave (n * 2 ^ k) d (e + k) := by
  have heq : n * 2 ^ k * 2 ^ (149 - (e + k)) = n * 2 ^ (149 - e) := by
    rw [mul_assoc, ← pow_add, show k + (149 - (e + k)) = 149 - e by omega]
  exact ⟨h.pos, hk, heq ▸ h.lower, heq ▸ h.upper⟩

/-- A factor 2^k leaves the significand as it is. -/
theorem InOctave.gridUnits_mul_two_pow {n d e k : Nat} (h : InOctave n d e) (hk : e + k ≤ 149) :
    gridUnits (n * 2 ^ k) d = gridUnits n d := by
  rw [(h.mul_two_pow hk).gridUnits_eq, h.gridUnits_eq, mul_assoc, ← pow_add, show k + (149 - (e + k)) = 149 - e by omega]

theorem InOctave.two_pow_split {n d e : Nat} (h : InOctave n d e) : 2 ^ 149 = 2 ^ (149 - e) * 2 ^ e := by
  rw [← pow_add, Nat.sub_add_cancel h.exponent]

/-- The distance of a multiple of 2^e from n/d, in units of 2^e / d. -/
theorem InOctave.distance_of_multiple {n d e : Nat} (h : InOctave n d e) (q : Int) :
    (q * 2 ^ e * d - n * 2 ^ 149).natAbs = (q * d - (n * 2 ^ (149 - e) : Nat)).natAbs * 2 ^ e := by
  have hfactor : q * 2 ^ e * d - n * 2 ^ 149 = (q * d - (n * 2 ^ (149 - e) : Nat)) * (2 ^ e : Nat) := by
    rw [show (2 : Int) ^ 149 = (2 ^ (149 - e) * 2 ^ e : Nat) by exact_mod_cast h.two_pow_split]
    push_cast
    ring
  rw [hfactor, Int.natAbs_mul, Int.natAbs_natCast]

/-- The lower end of the octave, in units of 2^-149 / d. -/
theorem InOctave.lower_units {n d e : Nat} (h : InOctave n d e) : (2 ^ 23 * 2 ^ e * d : Int) ≤ n * 2 ^ 149 := by
  have hle : 2 ^ 23 * 2 ^ e * d ≤ n * 2 ^ 149 :=
    calc 2 ^ 23 * 2 ^ e * d = d * 2 ^ 23 * 2 ^ e := by ring
      _ ≤ n * 2 ^ (149 - e) * 2 ^ e := Nat.mul_le_mul_right _ h.lower
      _ = n * 2 ^ 149 := by rw [mul_assoc, ← h.two_pow_split]
  exact_mod_cast hle

/-- The rounded quotient is nearest to n/d among the multiples of 2^e and the numbers below the octave; on a tie its
significand is even. -/
theorem InOctave.gridUnits_nearest {n d e : Nat} (h : InOctave n d e) {z : Int} (hz : 2 ^ e ∣ z ∨ z < 2 ^ 23 * 2 ^ e) :
    ((gridUnits n d * 2 ^ e : Int) * d - n * 2 ^ 149).natAbs ≤ (z * d - n * 2 ^ 149).natAbs ∧
    (((gridUnits n d * 2 ^ e : Int) * d - n * 2 ^ 149).natAbs = (z * d - n * 2 ^ 149).natAbs →
      z ≠ gridUnits n d * 2 ^ e → gridUnits n d % 2 = 0) := by
  have hnearest := divNearestEven_nearest h.pos (n := n * 2 ^ (149 - e))
  rw [h.distance_of_multiple, h.gridUnits_eq]
  rcases hz with ⟨q, rfl⟩ | hlt
  · obtain ⟨hle, htie⟩ := hnearest q
    rw [mul_comm (2 ^ e) q, h.distance_of_multiple]
    refine ⟨Nat.mul_le_mul_right _ hle, fun heq hne => htie (Nat.eq_of_mul_eq_mul_right (Nat.two_pow_pos e) heq) ?_⟩
    exact fun hq => hne (by rw [hq])
  · -- the lower end of the octave is a multiple of 2^e, and nearer to n/d than anything below it
    have hle := Nat.mul_le_mul_right (2 ^ e) (hnearest (2 ^ 23)).1
    rw [← h.distance_of_multiple (2 ^ 23)] at hle
    have hbelow : z * d < 2 ^ 23 * 2 ^ e * d := Int.mul_lt_mul_of_pos_right hlt (by exact_mod_cast h.pos)
    have hlow := h.lower_units
    omega

/-! ## The sign -/

theorem rne32Magnitude_le (n d : Nat) : rne32Magnitude n d ≤ 0x7F800000 := by
  unfold rne32Magnitude
  split_ifs <;> omega

theorem rne32_toNat (n : Int) (d : Nat) :
    (rne32 n d).toNat = (if n < 0 then 2 ^ 31 else 0) + rne32Magnitude n.natAbs d := by
  have := rne32Magnitude_le n.natAbs d
  rw [rne32, BitVec.toNat_ofNat, Nat.mod_eq_of_lt] <;> split_ifs <;> omega

/-- R90: the sign bit is the sign of the quotient. -/
theorem rne32_signBit (n : Int) (d : Nat) : (rne32 n d).extractLsb' 31 1 = 1#1 ↔ n < 0 := by
  have := rne32Magnitude_le n.natAbs d
  rw [← BitVec.toNat_inj, BitVec.extractLsb'_toNat, rne32_toNat, Nat.shiftRight_eq_div_pow]
  split_ifs with h <;> simp [h] <;> omega

/-- Adding the sign bit flips it. -/
theorem signBit_add_ofNat (m : Nat) : BitVec.ofNat 32 (0x80000000 + m) = BitVec.ofNat 32 m ^^^ 0x80000000#32 := by
  rw [show 0x80000000#32 = BitVec.twoPow 32 31 by decide, show 0x80000000 = 2 ^ 31 by decide]
  ext i hi
  rw [← BitVec.getLsbD_eq_getElem, ← BitVec.getLsbD_eq_getElem, BitVec.getLsbD_xor, BitVec.getLsbD_twoPow,
    BitVec.getLsbD_ofNat, BitVec.getLsbD_ofNat]
  rcases (by omega : i < 31 ∨ i = 31) with h | rfl
  · simp [Nat.testBit_two_pow_add_gt h, h.ne']
  · rw [Nat.testBit_two_pow_add_eq]
    simp

/-- R186 item 3: the rounded negated quotient differs in the sign bit alone. -/
theorem rne32_neg {n : Int} (hn : n ≠ 0) (d : Nat) : rne32 (-n) d = rne32 n d ^^^ 0x80000000#32 := by
  rw [rne32, rne32, Int.natAbs_neg]
  rcases hn.lt_or_gt with h | h
  · rw [if_pos h, if_neg (by omega), signBit_add_ofNat, zero_add, BitVec.xor_assoc, BitVec.xor_self, BitVec.xor_zero]
  · rw [if_neg h.not_gt, if_pos (by omega), signBit_add_ofNat, zero_add]

section
variable {n : Int} {d e : Nat} (h : InOctave n.natAbs d e)
include h

theorem magnitudeUnits_rne32 : magnitudeUnits (rne32 n d) = gridUnits n.natAbs d * 2 ^ e := by
  obtain ⟨hlo, hhi⟩ := h.gridUnits_bounds
  have := h.exponent
  refine magnitudeUnits_normal ?_ hlo hhi
  rw [rne32_toNat, h.rne32Magnitude_eq]
  split_ifs <;> omega

theorem valueUnits_rne32 : valueUnits (rne32 n d) = n.sign * (gridUnits n.natAbs d * 2 ^ e) := by
  have hn : n ≠ 0 := Int.natAbs_ne_zero.mp h.ne_zero
  rw [valueUnits, magnitudeUnits_rne32 h]
  rcases hn.lt_or_gt with hs | hs
  · rw [if_pos ((rne32_signBit n d).mpr hs), Int.sign_eq_neg_one_of_neg hs]
    push_cast; ring
  · rw [if_neg (mt (rne32_signBit n d).mp hs.not_gt), Int.sign_eq_one_of_pos hs]
    push_cast; ring

/-- R90: the exponent field is neither that of zero and the subnormal numbers nor that of infinity. -/
theorem rne32_normal : FiniteWord (rne32 n d) ∧ (rne32 n d).extractLsb' 23 8 ≠ 0#8 := by
  obtain ⟨hlo, hhi⟩ := h.gridUnits_bounds
  have := h.exponent
  have hfield : ((rne32 n d).extractLsb' 23 8).toNat = e + gridUnits n.natAbs d / 2 ^ 23 := by
    rw [BitVec.extractLsb'_toNat, rne32_toNat, h.rne32Magnitude_eq, Nat.shiftRight_eq_div_pow]
    split_ifs <;> omega
  refine ⟨fun heq => ?_, fun heq => ?_⟩
  · rw [heq, BitVec.toNat_ofNat] at hfield
    omega
  · rw [heq, BitVec.toNat_ofNat] at hfield
    omega

theorem rne32_lastBit (heven : gridUnits n.natAbs d % 2 = 0) : (rne32 n d).extractLsb' 0 1 = 0#1 := by
  apply BitVec.eq_of_toNat_eq
  rw [BitVec.extractLsb'_toNat, rne32_toNat, h.rne32Magnitude_eq, Nat.shiftRight_zero]
  split_ifs <;> simp <;> omega

/-- R187: a factor 2^k adds k to the exponent field and leaves the sign and the fraction. -/
theorem rne32_mul_two_pow {k : Nat} (hk : e + k ≤ 149) :
    rne32 (n * (2 ^ k : Nat)) d = rne32 n d + BitVec.ofNat 32 (k * 2 ^ 23) := by
  have hsign : n * (2 ^ k : Nat) < 0 ↔ n < 0 := by
    rw [← not_le, ← not_le, mul_nonneg_iff_of_pos_right (by positivity)]
  rw [rne32, rne32, Int.natAbs_mul, Int.natAbs_natCast, (h.mul_two_pow hk).rne32Magnitude_eq, h.gridUnits_mul_two_pow hk,
    h.rne32Magnitude_eq, ← BitVec.ofNat_add]
  simp only [hsign]
  congr 1
  ring

/-- R183: no finite binary32 value is nearer to n/d than the rounded one, and on a tie its last fraction bit is 0. -/
theorem rne32_nearest (w : Word) :
    (valueUnits (rne32 n d) * d - n * 2 ^ 149).natAbs ≤ (valueUnits w * d - n * 2 ^ 149).natAbs ∧
    ((valueUnits (rne32 n d) * d - n * 2 ^ 149).natAbs = (valueUnits w * d - n * 2 ^ 149).natAbs →
      valueUnits w ≠ valueUnits (rne32 n d) → (rne32 n d).extractLsb' 0 1 = 0#1) := by
  have hn : n ≠ 0 := Int.natAbs_ne_zero.mp h.ne_zero
  have hdist (z : Int) : (n.sign * z * d - n * 2 ^ 149).natAbs = (z * d - n.natAbs * 2 ^ 149).natAbs := by
    have hfactor : n.sign * z * d - n * 2 ^ 149 = n.sign * (z * d - n.natAbs * 2 ^ 149) := by
      nth_rewrite 2 [← Int.sign_mul_natAbs n]
      ring
    rw [hfactor, Int.natAbs_mul, Int.natAbs_sign_of_ne_zero hn, one_mul]
  have hw : valueUnits w = n.sign * (n.sign * valueUnits w) := by
    rw [← mul_assoc, ← Int.sign_mul, Int.sign_eq_one_of_pos (mul_self_pos.mpr hn), one_mul]
  have hz : (n.sign * valueUnits w).natAbs = (valueUnits w).natAbs := by
    rw [Int.natAbs_mul, Int.natAbs_sign_of_ne_zero hn, one_mul]
  obtain ⟨hle, htie⟩ := h.gridUnits_nearest (dvd_or_lt_of_natAbs hz e)
  rw [valueUnits_rne32 h, hdist, hw, hdist]
  exact ⟨hle, fun heq hne => rne32_lastBit h (htie heq fun hv => hne (by rw [hv]))⟩

end

end Sys2Proof.Machine
end

section
/-! # The Range-Scale Multiplier

Every nonzero raw value, times every full scale, is a quotient by 32767 in a normal octave, so R183 holds of it. The properties of
R186 follow from that and from the values at the ends of the range; R187 holds because a factor 2^k moves the octave alone. -/

namespace Sys2Proof.Machine

/-! ## The full scales -/

/-- Settles O60: the four rows are `settings_encoded`. -/
theorem fullScalesAreEncodedAsListed : Obligations.FullScalesAreEncodedAsListed :=
  ⟨settings_encoded, rfl, rfl⟩

/-! ## The octave of a scaled value -/

theorem exists_octave_raw {m : Nat} (hpos : m ≠ 0) (hle : m ≤ 32768) : ∃ e ≤ 126, InOctave m maxRaw e := by
  have hm : m * 2 ^ 15 / maxRaw ≠ 0 := (Nat.div_pos (by rw [maxRaw]; omega) (by decide)).ne'
  have hlo := (Nat.le_div_iff_mul_le (by decide)).mp (Nat.log2_self_le hm)
  have hhi := (Nat.div_lt_iff_lt_mul (by decide)).mp (Nat.lt_log2_self (n := m * 2 ^ 15 / maxRaw))
  have hj : (m * 2 ^ 15 / maxRaw).log2 < 16 := (Nat.log2_lt hm).mpr (Nat.div_lt_of_lt_mul (by rw [maxRaw]; omega))
  generalize (m * 2 ^ 15 / maxRaw).log2 = j at *
  refine ⟨j + 111, by omega, by decide, by omega, ?_, ?_⟩
  · rw [mul_comm] at hlo
    exact (mul_two_pow_le_iff (by omega)).mp hlo
  · rw [mul_comm (2 ^ _)] at hhi
    exact lt_of_not_ge fun h => hhi.not_ge ((mul_two_pow_le_iff (by omega)).mp h)

/-- R182: the full scales are powers of two. -/
theorem fullScale_two_pow : ∀ f ∈ [2, 4, 8, 16], ∃ k ≤ 4, f = 2 ^ k := by decide

theorem exists_octave_scaled {raw : Int} (hlo : -32768 ≤ raw) (hhi : raw ≤ 32767) (hraw : raw ≠ 0) {f : Nat}
    (hf : f ∈ [2, 4, 8, 16]) : ∃ e, InOctave (raw * f).natAbs maxRaw e := by
  obtain ⟨e, he, h⟩ := exists_octave_raw (Int.natAbs_ne_zero.mpr hraw) (by omega)
  obtain ⟨k, hk, rfl⟩ := fullScale_two_pow f hf
  rw [Int.natAbs_mul, Int.natAbs_natCast]
  exact ⟨e + k, h.mul_two_pow (by omega)⟩

/-- Settles O57: `rne32_normal` and `rne32_nearest` for a nonzero raw value, and the value 0 at 0. -/
theorem scaleRoundsToNearestEven : Obligations.ScaleRoundsToNearestEven := by
  unfold Obligations.ScaleRoundsToNearestEven
  intro raw f hlo hhi hf
  rcases eq_or_ne raw 0 with rfl | hraw
  · have h0 : scale 0 f = 0x00000000#32 := by simp [scale, rne32, rne32Magnitude]
    rw [h0]
    refine ⟨by unfold FiniteWord; decide, fun _ => rfl, fun h => absurd rfl h, fun w _ => ⟨?_, fun _ _ => by decide⟩⟩
    rw [show valueUnits 0x00000000#32 = 0 by decide]
    simp
  · obtain ⟨e, h⟩ := exists_octave_scaled hlo hhi hraw hf
    obtain ⟨hfin, hnormal⟩ := rne32_normal h
    exact ⟨hfin, fun h0 => absurd h0 hraw, fun _ => hnormal, fun w _ => rne32_nearest h w⟩

/-! ## The full scale and the exponent -/

/-- Settles O59: a factor 2^k adds k to the exponent field (`rne32_mul_two_pow`). -/
theorem fullScaleOnlyMovesTheExponent : Obligations.FullScaleOnlyMovesTheExponent := by
  unfold Obligations.FullScaleOnlyMovesTheExponent
  intro raw hlo hhi hraw
  obtain ⟨e, he, h⟩ := exists_octave_raw (Int.natAbs_ne_zero.mpr hraw) (by omega)
  have hscale (k : Nat) (hk : k ≤ 4) : scale raw (2 ^ k) = rne32 raw maxRaw + BitVec.ofNat 32 (k * 2 ^ 23) :=
    rne32_mul_two_pow h (by omega)
  exact ⟨hscale 1 (by decide), hscale 2 (by decide), hscale 3 (by decide), hscale 4 (by decide)⟩

/-! ## The listed properties -/

/-- R186 item 5: of two roundings to nearest the one of the larger quotient is not the smaller. -/
theorem valueUnits_scale_mono {f : Nat} (hf : f ∈ [2, 4, 8, 16]) {raw raw' : Int} (hlo : -32768 ≤ raw)
    (hle : raw ≤ raw') (hhi : raw' ≤ 32767) : valueUnits (scale raw f) ≤ valueUnits (scale raw' f) := by
  rcases hle.eq_or_lt with rfl | hlt
  · exact le_rfl
  obtain ⟨hfin, -, -, hnear⟩ := scaleRoundsToNearestEven raw f hlo (by omega) hf
  obtain ⟨hfin', -, -, hnear'⟩ := scaleRoundsToNearestEven raw' f (by omega) hhi hf
  have hx : raw * f * 2 ^ 149 < raw' * f * 2 ^ 149 := by
    have hpos : (0 : Int) < f * 2 ^ 149 := by
      obtain ⟨k, -, rfl⟩ := fullScale_two_pow f hf
      positivity
    rw [mul_assoc, mul_assoc]
    exact Int.mul_lt_mul_of_pos_right hlt hpos
  have h := (hnear _ hfin').1
  have h' := (hnear' _ hfin).1
  omega

/-- R186 item 3. -/
theorem scale_neg {raw : Int} (hraw : raw ≠ 0) {f : Nat} (hf : f ≠ 0) : scale (-raw) f = scale raw f ^^^ 0x80000000#32 := by
  rw [scale, neg_mul]
  exact rne32_neg (by simp [hraw, hf]) maxRaw

/-- R186 items 1, 2 and 4: the patterns at 0 and at the ends. -/
theorem scale_ends : ∀ f ∈ [2, 4, 8, 16],
    scale 0 f = 0x00000000#32 ∧ scale 32767 f = fullScaleWord f ∧ scale (-32767) f = fullScaleWord f ||| 0x80000000#32 ∧
    scale (-32768) f = (fullScaleWord f ||| 0x80000000#32) + 0x00000100#32 ∧
    magnitudeUnits (fullScaleWord f) < magnitudeUnits (scale (-32768) f) := by decide

/-- The values at the ends of the range, which bound the others (R186 items 4 and 6). -/
theorem valueUnits_scale_ends : ∀ f ∈ [2, 4, 8, 16],
    valueUnits (scale 32767 f) = magnitudeUnits (fullScaleWord f) ∧
    valueUnits (scale (-32767) f) = -magnitudeUnits (fullScaleWord f) ∧
    magnitudeUnits (fullScaleWord f) ≤ magnitudeUnits 0x41800100#32 ∧
    -magnitudeUnits 0x41800100#32 ≤ valueUnits (scale (-32768) f) ∧
    magnitudeUnits 0x38800100#32 ≤ valueUnits (scale 1 f) ∧
    valueUnits (scale (-1) f) ≤ -magnitudeUnits 0x38800100#32 := by decide

/-- R186 item 4: only -32768 exceeds the full scale. -/
theorem magnitudeUnits_scale_le {f : Nat} (hf : f ∈ [2, 4, 8, 16]) {raw : Int} (hlo : -32767 ≤ raw) (hhi : raw ≤ 32767) :
    magnitudeUnits (scale raw f) ≤ magnitudeUnits (fullScaleWord f) := by
  obtain ⟨hmax, hmin, -⟩ := valueUnits_scale_ends f hf
  have := valueUnits_scale_mono hf (by decide) hlo hhi
  have := valueUnits_scale_mono hf (by omega) hhi le_rfl
  rw [← valueUnits_natAbs]
  omega

/-- R186 item 6. -/
theorem magnitudeUnits_scale_bounds {f : Nat} (hf : f ∈ [2, 4, 8, 16]) {raw : Int} (hlo : -32768 ≤ raw)
    (hhi : raw ≤ 32767) (hraw : raw ≠ 0) : magnitudeUnits 0x38800100#32 ≤ magnitudeUnits (scale raw f) ∧
      magnitudeUnits (scale raw f) ≤ magnitudeUnits 0x41800100#32 := by
  obtain ⟨hmax, -, hfull, hmin, hone, hminusOne⟩ := valueUnits_scale_ends f hf
  have := valueUnits_scale_mono hf (by decide) hlo hhi
  have := valueUnits_scale_mono hf hlo hhi le_rfl
  rw [← valueUnits_natAbs (scale raw f)]
  rcases hraw.lt_or_gt with hneg | hpos
  · have := valueUnits_scale_mono (raw' := -1) hf hlo (by omega) (by decide)
    omega
  · have := valueUnits_scale_mono (raw := 1) hf (by decide) hpos hhi
    omega

/-- Settles O58: the patterns at the ends, odd symmetry, monotony, and the bounds that monotony gives. -/
theorem scaleHasTheListedProperties : Obligations.ScaleHasTheListedProperties := by
  unfold Obligations.ScaleHasTheListedProperties
  intro f hf
  obtain ⟨hzero, hmax, hmin, hbelow, hexceeds⟩ := scale_ends f hf
  have hf0 : f ≠ 0 := by rintro rfl; exact absurd hf (by decide)
  exact ⟨hzero, hmax, hmin, hbelow, fun _ => magnitudeUnits_scale_le hf, hexceeds, fun _ _ _ hraw => scale_neg hraw hf0,
    fun _ _ => valueUnits_scale_mono hf, fun _ => magnitudeUnits_scale_bounds hf⟩

end Sys2Proof.Machine
end

section
/-! # The first failing check

R204 asks for legality, the port class and the acquisition first, and then for the command's own conditions. Each status of
those is one fact about `checkCommand`, and `check_eq_iff_on_m` or `check_eq_iff_on_handle` puts it behind the checks before it. -/

namespace Sys2Proof.Machine

/-! ## The command-specific checks -/

section
variable {s : State} {q : PortRef} {i : Instr}

theorem checkCommand_mem_of_management (h : i.isManagement = true) :
    checkCommand s q i ∈ [.ok, .phase, .handlesExhausted, .busTaken] := by
  cases i with
  | acquire | takeBus | run => simp only [checkCommand]; split_ifs <;> decide
  | _ => cases h

theorem checkCommand_mem_of_handle (h : i.isManagement = false) :
    checkCommand s q i ∈ [.ok, .alreadyBound, .notBound, .busNotOwned] := by
  cases i with
  | acquire | takeBus | run => cases h
  | _ => simp only [checkCommand, checkDriver, checkBus]; split_ifs <;> decide

/-- R204: the statuses of the command-specific checks. -/
theorem checkCommand_mem (s : State) (q : PortRef) (i : Instr) :
    checkCommand s q i ∈ [.ok, .phase, .handlesExhausted, .busTaken, .alreadyBound, .notBound, .busNotOwned] := by
  cases h : i.isManagement with
  | true => exact List.mem_append_left _ (checkCommand_mem_of_management h)
  | false => exact List.subset_def.mp (by simp) (checkCommand_mem_of_handle h)

theorem isManagement_of_checkCommand (h : checkCommand s q i ∈ [.phase, .handlesExhausted, .busTaken]) :
    i.isManagement = true := by
  by_contra hm
  exact absurd (checkCommand_mem_of_handle (Bool.eq_false_iff.mpr hm)) ((by decide :
    ∀ st ∈ [Status.phase, .handlesExhausted, .busTaken], st ∉ [.ok, .alreadyBound, .notBound, .busNotOwned]) _ h)

theorem isManagement_eq_false_of_checkCommand (h : checkCommand s q i ∈ [.alreadyBound, .notBound, .busNotOwned]) :
    i.isManagement = false := by
  by_contra hm
  exact absurd (checkCommand_mem_of_management (Bool.not_eq_false _ ▸ hm)) ((by decide :
    ∀ st ∈ [Status.alreadyBound, .notBound, .busNotOwned], st ∉ [.ok, .phase, .handlesExhausted, .busTaken]) _ h)

theorem checkCommand_eq_phase : checkCommand s q i = .phase ↔ (i = .acquire ∨ i = .run) ∧ s.phase = .run := by
  cases i with
  | acquire | run => simp [checkCommand, ite_eq_iff]
  | _ => simp [checkCommand, checkBus, checkDriver, ite_eq_iff]

theorem checkCommand_eq_handlesExhausted :
    checkCommand s q i = .handlesExhausted ↔ i = .acquire ∧ s.phase = .setup ∧ s.nextHandle.toNat = s.cfg.h := by
  cases i with
  | acquire => cases hp : s.phase <;> simp [checkCommand, hp]
  | _ => simp [checkCommand, checkBus, checkDriver, ite_eq_iff]

theorem checkCommand_eq_busTaken : checkCommand s q i = .busTaken ↔ i = .takeBus ∧ s.busOwned = true := by
  cases i with
  | takeBus => simp [checkCommand]
  | _ => simp [checkCommand, checkBus, checkDriver, ite_eq_iff]

theorem checkCommand_eq_alreadyBound :
    checkCommand s q i = .alreadyBound ↔ (∃ a, i = .bind a) ∧ portBound s q = true := by
  cases i with
  | bind a => simp [checkCommand]
  | _ => simp [checkCommand, checkBus, checkDriver, ite_eq_iff]

theorem checkCommand_eq_notBound : checkCommand s q i = .notBound ↔ i.isDriver = true ∧ portBound s q = false := by
  cases i with
  | readId | readRange | readSample => simp [checkCommand, checkDriver, checkBus, ite_eq_iff, Instr.isDriver]
  | _ => simp [checkCommand, checkBus, ite_eq_iff, Instr.isDriver]

theorem checkCommand_eq_busNotOwned : checkCommand s q i = .busNotOwned ↔
    i.isBus = true ∧ (i.isDriver = true → portBound s q = true) ∧ s.busOwned = false := by
  cases i with
  | transact | readReg | writeReg => simp [checkCommand, checkBus, Instr.isBus, Instr.isDriver]
  | readId | readRange | readSample => simp [checkCommand, checkDriver, checkBus, ite_eq_iff, Instr.isBus, Instr.isDriver]
  | _ => simp [checkCommand, ite_eq_iff, Instr.isBus]

end

/-! ## The checks in their order -/

section
variable {s : State} {q : PortRef} {ws : List Byte} {i : Instr} {st : Status}

/-- R204: each status with the checks before it. -/
theorem check_eq_iff : check s q ws i = st ↔
    (i.legal s.cfg ws = false ∧ .illegal = st) ∨
    (i.legal s.cfg ws = true ∧ wrongPort q i = true ∧ .wrongPort = st) ∨
    (i.legal s.cfg ws = true ∧ wrongPort q i = false ∧ unacquired s q = true ∧ .notAcquired = st) ∨
    (i.legal s.cfg ws = true ∧ wrongPort q i = false ∧ unacquired s q = false ∧ checkCommand s q i = st) := by
  unfold check
  cases i.legal s.cfg ws <;> cases wrongPort q i <;> cases unacquired s q <;> simp

/-- R204: an error of a command-specific check is reported behind the first three checks. -/
theorem check_eq_iff_of_mem (h : st ∈ [.phase, .handlesExhausted, .busTaken, .alreadyBound, .notBound, .busNotOwned]) :
    check s q ws i = st ↔ i.legal s.cfg ws = true ∧ wrongPort q i = false ∧ unacquired s q = false ∧
      checkCommand s q i = st := by
  have hne {e : Status} (he : e ∉ _) : e ≠ st := (ne_of_mem_of_not_mem h he).symm
  have hillegal : .illegal ≠ st := hne (by decide)
  have hwrong : .wrongPort ≠ st := hne (by decide)
  have hacq : .notAcquired ≠ st := hne (by decide)
  simp [check_eq_iff, hillegal, hwrong, hacq]

/-- R83: an error of a management command is met on M, which passes the acquisition check. -/
theorem check_eq_iff_on_m (h : st ∈ [.phase, .handlesExhausted, .busTaken]) :
    check s q ws i = st ↔ i.legal s.cfg ws = true ∧ q = .m ∧ checkCommand s q i = st := by
  have hm (hc : checkCommand s q i = st) : i.isManagement = true := isManagement_of_checkCommand (hc ▸ h)
  rw [check_eq_iff_of_mem (List.mem_append_left _ h)]
  refine and_congr_right fun _ => ?_
  cases q with
  | m => simpa [wrongPort, unacquired] using hm
  | handle p => simpa [wrongPort] using fun hw _ hc => by simp [hm hc] at hw

/-- R83: an error of a handle command is met on an acquired handle port. -/
theorem check_eq_iff_on_handle (h : st ∈ [.alreadyBound, .notBound, .busNotOwned]) :
    check s q ws i = st ↔ i.legal s.cfg ws = true ∧
      ∃ p, q = .handle p ∧ p.val < s.nextHandle.toNat ∧ checkCommand s (.handle p) i = st := by
  have hm (hc : checkCommand s q i = st) : i.isManagement = false := isManagement_eq_false_of_checkCommand (hc ▸ h)
  rw [check_eq_iff_of_mem (List.mem_append_right [_, _, _] h)]
  refine and_congr_right fun _ => ?_
  cases q with
  | m => simpa [wrongPort] using fun hw _ hc => by simp [hm hc] at hw
  | handle p => simpa [wrongPort, unacquired_handle] using fun _ => hm

theorem check_eq_illegal : check s q ws i = .illegal ↔ i.legal s.cfg ws = false := by
  have hc : checkCommand s q i ≠ .illegal := ne_of_mem_of_not_mem (checkCommand_mem s q i) (by decide)
  simp [check_eq_iff, hc]

theorem check_eq_wrongPort : check s q ws i = .wrongPort ↔
    i.legal s.cfg ws = true ∧ ¬(i.isManagement = true ↔ q = .m) := by
  have hc : checkCommand s q i ≠ .wrongPort := ne_of_mem_of_not_mem (checkCommand_mem s q i) (by decide)
  rw [iff_comm (a := i.isManagement = true), ← wrongPort_eq_false]
  simp [check_eq_iff, hc]

theorem check_eq_notAcquired : check s q ws i = .notAcquired ↔
    i.legal s.cfg ws = true ∧ i.isManagement = false ∧ ∃ p, q = .handle p ∧ ¬ p.val < s.nextHandle.toNat := by
  have hc : checkCommand s q i ≠ .notAcquired := ne_of_mem_of_not_mem (checkCommand_mem s q i) (by decide)
  have hq : (wrongPort q i = false ∧ unacquired s q = true) ↔
      i.isManagement = false ∧ ∃ p, q = .handle p ∧ ¬ p.val < s.nextHandle.toNat := by
    cases q <;> simp [wrongPort, unacquired, State.acquired]
  rw [← hq]
  simp [check_eq_iff, hc]

/-- R204: a check gives no status of a transaction and no E_UNREACHABLE_CONFIG. -/
theorem check_mem (s : State) (q : PortRef) (ws : List Byte) (i : Instr) : check s q ws i ∈
    [.illegal, .wrongPort, .notAcquired, .ok, .phase, .handlesExhausted, .busTaken, .alreadyBound, .notBound,
      .busNotOwned] := by
  rcases check_eq_iff.mp (Eq.refl (check s q ws i)) with ⟨-, h⟩ | ⟨-, -, h⟩ | ⟨-, -, -, h⟩ | ⟨-, -, -, h⟩ <;> rw [← h]
  · decide
  · decide
  · decide
  · exact List.mem_append_right [_, _, _] (checkCommand_mem s q i)

end

/-- Settles O13: the first three checks by themselves, every later status by the command-specific check behind them. -/
theorem firstFailingCheckIsReported : Obligations.FirstFailingCheckIsReported := by
  unfold Obligations.FirstFailingCheckIsReported
  intro s ws i q
  have hne {st : Status} (h : st ∉ _) : check s q ws i ≠ st := ne_of_mem_of_not_mem (check_mem s q ws i) h
  refine ⟨check_eq_illegal, check_eq_wrongPort, check_eq_notAcquired, ?_, ?_, ?_, ?_, ?_, ?_, hne (by decide),
    hne (by decide), hne (by decide)⟩
  · rw [check_eq_iff_on_m (by decide), checkCommand_eq_phase]
  · rw [check_eq_iff_on_m (by decide), checkCommand_eq_handlesExhausted]
  · rw [check_eq_iff_on_m (by decide), checkCommand_eq_busTaken]
  · simp only [check_eq_iff_on_handle (st := .alreadyBound) (by decide), checkCommand_eq_alreadyBound, portBound]
  · simp only [check_eq_iff_on_handle (st := .notBound) (by decide), checkCommand_eq_notBound, portBound]
  · simp only [check_eq_iff_on_handle (st := .busNotOwned) (by decide), checkCommand_eq_busNotOwned, portBound]

/-! ## Commands that fail a check -/

/-- Settles O14, on M and on a handle port. -/
theorem refusedCommandOnlyCompletes : Obligations.RefusedCommandOnlyCompletes := by
  unfold Obligations.RefusedCommandOnlyCompletes
  refine fun s i cw ws => ⟨fun hd hc => exec_refused_m hd rfl hc, fun p hd hc => ?_⟩
  rw [exec_refused hd hc, raise_latch_handle_eq_afterSubmit]

/-- Settles O22: on a handle port a legal bus command meets the acquisition check and then its own. -/
theorem busCommandFailsFast : Obligations.BusCommandFailsFast := by
  unfold Obligations.BusCommandFailsFast
  intro s p i cw ws hb hd hl
  have hm := isManagement_of_isBus hb
  refine ⟨fun ha => ?_, fun ha hdr hbound => ?_, fun ha hbound ho => ?_⟩
  · exact exec_refused_handle hd hl (check_notAcquired hl hm ha) (by decide)
  · have hc := (check_handle hl hm ha).trans (checkCommand_eq_notBound.mpr ⟨hdr, hbound⟩)
    exact exec_refused_handle hd hl hc (by decide)
  · have hc := (check_handle hl hm ha).trans (checkCommand_eq_busNotOwned.mpr ⟨hb, hbound, ho⟩)
    exact exec_refused_handle hd hl hc (by decide)

end Sys2Proof.Machine
end

section
/-! # Ports leave each other alone

A requester's turn and the channel's answer concern one port. `OnlyPort` says what they leave as it was; it is shown
operation by operation. -/

namespace Sys2Proof.Machine

/-- The port whose requester or transaction the turn serves. -/
def Turn.port : Turn → Option PortRef
  | .submit q => some q
  | .take q => some q
  | .channel p _ => some (.handle p)
  | .arbiter _ => none
  | .reset => none

/-- R205, R207: t differs from s only where a turn of port q may change it. -/
def OnlyPort (s t : State) : PortRef → Prop
  | .m => t.ports = s.ports ∧ t.offers = s.offers ∧ t.lock = s.lock ∧ t.history = s.history
  | .handle p => (∀ r : PortId, r ≠ p → t.port r = s.port r ∧ t.offers[r.val] = s.offers[r.val]) ∧
      t.mst = s.mst ∧ t.mrsp = s.mrsp ∧ t.mOffers = s.mOffers

/-! ## Operations on one port -/

section
variable {s t : State} {q : PortRef} {p : PortId}

theorem onlyPort_passTurn (s : State) (q : PortRef) : OnlyPort s s.passTurn q := by
  cases q <;> simp [OnlyPort]

theorem OnlyPort.setPort (h : OnlyPort s t (.handle p)) (x : PortState) : OnlyPort s (t.setPort p x) (.handle p) := by
  obtain ⟨hother, hm⟩ := h
  refine ⟨fun r hr => ?_, hm⟩
  rw [State.port_setPort_of_ne t x hr]
  exact hother r hr

theorem OnlyPort.complete (h : OnlyPort s t q) (st : Status) (n : BitVec 3) (r : Result) :
    OnlyPort s (complete q st n r t) q := by
  cases q with
  | m => exact h
  | handle p => exact h.setPort _

theorem onlyPort_consume (s : State) (q : PortRef) : OnlyPort s (s.consume q) q := by
  cases q with
  | m => exact ⟨rfl, rfl, rfl, rfl⟩
  | handle p =>
    refine ⟨fun r hr => ⟨rfl, ?_⟩, rfl, rfl, rfl⟩
    exact Vector.getElem_set_ne p.isLt r.isLt fun e => hr (Fin.ext e.symm)

theorem onlyPort_latch (s : State) (q : PortRef) (sub : Submission) : OnlyPort s (latch q sub s) q := by
  cases q with
  | m => exact onlyPort_consume s .m
  | handle p => exact (onlyPort_consume s (.handle p)).setPort _

theorem onlyPort_performed (s : State) (p : PortId) (x : Xfer) (o : ChanOutcome) :
    OnlyPort s (s.performed p x o) (.handle p) :=
  ⟨fun _ _ => ⟨rfl, rfl⟩, rfl, rfl, rfl⟩

end

/-! ## The moves -/

theorem Move.onlyPort {s t : State} (h : Move s t) {u : Turn} {ts : List Turn} {q : PortRef} (ht : s.turns = u :: ts)
    (hu : u.port = some q) : OnlyPort s t q := by
  have hturns {v : Turn} {vs : List Turn} (hv : s.turns = v :: vs) : v.port = some q := by
    rw [ht] at hv; cases hv; exact hu
  have haccept {r : PortRef} {sub : Submission} (hd : s.due = .accept r sub) : r = q := by
    obtain ⟨_, _, hv, -⟩ := due_eq_accept hd
    exact Option.some.inj (hturns hv)
  have hperform {p : PortId} {o : ChanOutcome} (hd : s.due = .perform p o) : .handle p = q := by
    obtain ⟨_, hv, -⟩ := due_eq_perform hd
    exact Option.some.inj (hturns hv)
  cases h with
  | rest hv => rw [ht] at hv; cases hv
  | pass => exact onlyPort_passTurn s q
  | reset _ hv | grant _ _ _ hv => cases hturns hv
  | takeM _ _ hv => cases hturns hv; exact onlyPort_passTurn s .m
  | take _ p _ hv => cases hturns hv; exact (onlyPort_passTurn s (.handle p)).setPort _
  | illegal _ sub _ hd | refuse _ sub _ hd => cases haccept hd; exact (onlyPort_latch s q sub).complete _ _ _
  | acquire sub hd | takeBus sub hd | run sub hd => cases haccept hd; exact onlyPort_latch s .m sub
  | bind p _ _ hd | accept p _ _ _ hd => cases haccept hd; exact (onlyPort_consume s (.handle p)).setPort _
  | abort p o _ _ _ _ x hd => cases hperform hd; exact (onlyPort_performed s p x o).complete _ _ _
  | again p o _ _ _ _ x hd | finish p o _ _ _ _ x _ hd => cases hperform hd; exact (onlyPort_performed s p x o).setPort _

/-- Settles O54, by the moves that the port's turn enables. -/
theorem otherPortsAreUndisturbed : Obligations.OtherPortsAreUndisturbed := by
  unfold Obligations.OtherPortsAreUndisturbed
  intro s t u ts h ht
  refine ⟨fun p hu => (step_move h).onlyPort (q := .handle p) ht ?_, fun hu => (step_move h).onlyPort (q := .m) ht ?_⟩
  · rcases hu with rfl | rfl | ⟨o, rfl⟩ <;> rfl
  · rcases hu with rfl | rfl <;> rfl

end Sys2Proof.Machine
end

section
/-! # Reset, and a waiting command that is served

A served transaction takes two turns: the arbiter's, which gives the port the lock, and the channel's, which answers it. That a
served command completes is an induction on the answers to come, with one such pair of turns per step. -/

namespace Sys2Proof.Machine

/-! ## Reset -/

/-- Settles O39: a reset's turn runs the reset, whatever the ports are doing. -/
theorem resetDropsWhatIsOutstanding : Obligations.ResetDropsWhatIsOutstanding := by
  unfold Obligations.ResetDropsWhatIsOutstanding
  intro s ts ht
  simp [step, ht, resetBlock]

/-! ## One transaction answered Ok -/

@[simp] theorem afterTransaction_port (s : State) (p : PortId) (x : Xfer) (o : ChanOutcome) (y : PortState) :
    (afterTransaction s p x o y).port p = y :=
  State.port_setPort_self _ p y

/-- The word a port has latched decides its command, and so the plan. -/
theorem Latched.unique {s : State} {p : PortId} {i j : Instr} {xs ys : List Xfer} (h : Latched s p i xs)
    (h' : Latched s p j ys) : i = j ∧ xs = ys := by
  obtain ⟨cw, ws, hcw, hws, hi, hxs⟩ := h
  obtain ⟨cw', ws', hcw', hws', hj, hys⟩ := h'
  obtain rfl : cw = cw' := Option.some.inj (hcw.symm.trans hcw')
  obtain rfl : i = j := Except.ok.inj ((decode_eq_ok.mp hi).1.symm.trans (decode_eq_ok.mp hj).1)
  exact ⟨rfl, Option.some.inj (hxs.symm.trans hys)⟩

section
variable {s : State} {p : PortId} {rs : List Byte} {i : Instr} {xs : List Xfer} {x : Xfer}

theorem Performs.step_eq_exec {o : ChanOutcome} (hx : Performs s p o i xs x) : step s = exec i s := by
  obtain ⟨cw, hcw, hi⟩ := hx.latched
  exact step_runs_latched hx.due hcw hi

/-- R104, with transactions left. -/
theorem Performs.step_again (hx : Performs s p (.ok rs) i xs x) (hi : Inv s)
    (hn : (s.port p).step.toNat + 1 < xs.length) :
    step s = .next (afterTransaction s p x (.ok rs)
      { s.port p with rbuf := (s.port p).rbuf ++ rs, step := (s.port p).step + 1, pst := .wait }) := by
  obtain ⟨-, hb, -⟩ := hx.planned hi
  exact hx.step_eq_exec.trans (exec_ok_again hb hx.due hx.plan hx.atStep (admits_ok.mp hx.admitted) hn)

/-- R104, after the last transaction: RBUF holds the bytes of the whole plan, so there is a result. -/
theorem Performs.step_finish (hx : Performs s p (.ok rs) i xs x) (hi : Inv s)
    (hn : (s.port p).step.toNat + 1 = xs.length) :
    ∃ r, resultOf s.cfg ((s.port p).rbuf ++ rs) i = some r ∧
      step s = .next (afterTransaction s p x (.ok rs)
        { (s.port p).doneWith (response r.status 0 r) with
          rbuf := (s.port p).rbuf ++ rs, step := (s.port p).step + 1 }) := by
  obtain ⟨-, hb, -⟩ := hx.planned hi
  obtain ⟨r, hr⟩ := resultOf_whole hb hx.plan (hn ▸ hx.rbuf_length hi)
  exact ⟨r, hr, hx.step_eq_exec.trans (exec_ok_finish hb hx.due hx.plan hx.atStep (admits_ok.mp hx.admitted) hn hr)⟩

end

/-! ## A waiting command and its service -/

/-- The command i, whose plan is xs, waits on port p for a lock that is free and that the arbiter may give to any port. -/
structure AwaitsLock (s : State) (p : PortId) (i : Instr) (xs : List Xfer) : Prop where
  inv : Inv s
  anyWaiting : s.cfg.arb = .anyWaiting
  free : s.lock = none
  waits : (s.port p).pst = .wait
  latched : Latched s p i xs

/-- In t the command i that waits on port p in s has read these bytes more and is DONE, with the result of its whole read buffer;
the lock is free. -/
structure CompletedWith (s t : State) (p : PortId) (i : Instr) (bytes : List Byte) : Prop where
  free : t.lock = none
  done : (t.port p).pst = .done
  rbuf : (t.port p).rbuf = (s.port p).rbuf ++ bytes
  result : ∃ r, resultOf s.cfg (t.port p).rbuf i = some r ∧ (t.port p).rsp = some (response r.status 0 r)

section
variable {s : State} {p : PortId} {i : Instr} {xs : List Xfer} {x : Xfer} {rs : List Byte} {ts : List Turn}

/-- R40, item 5, with the plan named. -/
theorem AwaitsLock.step_lt (h : AwaitsLock s p i xs) : (s.port p).step.toNat < xs.length := by
  obtain ⟨j, ys, hl, -, -, hlt, -⟩ := h.inv.pendingPlan p (.inl h.waits)
  obtain ⟨rfl, rfl⟩ := hl.unique h.latched
  exact hlt

/-- R102: the arbiter's turn puts the next transaction on the bus, where the channel's answer meets it. -/
theorem AwaitsLock.granted (h : AwaitsLock s p i xs) (ht : s.turns = .arbiter p :: .channel p (.ok rs) :: ts)
    (hx : xs[(s.port p).step.toNat]? = some x) (hl : rs.length = x.m) :
    ∃ u, step s = .next u ∧ Inv u ∧ Performs u p (.ok rs) i xs x ∧ u.cfg = s.cfg ∧ u.turns.tail = ts ∧
      u.port p = { s.port p with pst := .bus } := by
  obtain ⟨-, hacq⟩ := h.inv.pendingReady p (.inl h.waits)
  have hp : p.val < s.cfg.h := hacq.trans_le h.inv.handlesWithinH
  obtain ⟨u, hsu, hcfg, hts, hport⟩ : ∃ u, step s = .next u ∧ u.cfg = s.cfg ∧ u.turns = .channel p (.ok rs) :: ts ∧
      u.port p = { s.port p with pst := .bus } :=
    ⟨_, anyWaitingPortMayBeGranted s p _ h.anyWaiting ht h.free hp h.waits, rfl, rfl, State.port_setPort_self s p _⟩
  obtain ⟨cw, ws, hcw, -, hdec, hxs⟩ : Latched u p i xs :=
    h.latched.congr hcfg (by simp [hport]) (by simp [hport]) (by simp [hport])
  refine ⟨u, hsu, everyStepKeepsTheInvariant s u h.inv hsu, ?_, hcfg, by simp [hts], hport⟩
  exact {
    due := due_perform_of hts (present_iff.mpr (hcfg ▸ hp)) (by simp [hport])
    latched := ⟨cw, hcw, (decode_eq_ok.mp hdec).1⟩
    plan := hxs
    atStep := by simpa [hport] using hx
    admitted := admits_ok.mpr hl }

/-- With transactions left, two turns of service bring the command to its next one. -/
theorem AwaitsLock.served_again (h : AwaitsLock s p i xs) (ht : s.turns = .arbiter p :: .channel p (.ok rs) :: ts)
    (hx : xs[(s.port p).step.toNat]? = some x) (hl : rs.length = x.m) (hn : (s.port p).step.toNat + 1 < xs.length) :
    ∃ t, (∀ k, core.run (k + 2) s = core.run k t) ∧ AwaitsLock t p i xs ∧ t.cfg = s.cfg ∧ t.turns = ts ∧
      (t.port p).step.toNat = (s.port p).step.toNat + 1 ∧ (t.port p).rbuf = (s.port p).rbuf ++ rs := by
  obtain ⟨u, hsu, hu, hperf, hcfg, hts, hport⟩ := h.granted ht hx hl
  have hut := hperf.step_again hu (by simpa [hport] using hn)
  refine ⟨_, fun k => (run_succ hsu (k + 1)).trans (run_succ hut k), ?_, hcfg, hts, ?_, ?_⟩
  · exact {
      inv := everyStepKeepsTheInvariant _ _ hu hut
      anyWaiting := (congrArg Config.arb hcfg).trans h.anyWaiting
      free := rfl
      waits := by simp
      latched := h.latched.congr hcfg (by simp [hport]) (by simp [hport]) (by simp [hport]) }
  · simpa [hport] using hperf.step_succ
  · simp [hport]

/-- At the last transaction, two turns of service complete the command. -/
theorem AwaitsLock.served_last (h : AwaitsLock s p i xs) (ht : s.turns = .arbiter p :: .channel p (.ok rs) :: ts)
    (hx : xs[(s.port p).step.toNat]? = some x) (hl : rs.length = x.m) (hn : (s.port p).step.toNat + 1 = xs.length) :
    ∃ t, core.run 2 s = .next t ∧ t.turns = ts ∧ CompletedWith s t p i rs := by
  obtain ⟨u, hsu, hu, hperf, hcfg, hts, hport⟩ := h.granted ht hx hl
  obtain ⟨r, hr, hut⟩ := hperf.step_finish hu (by simpa [hport] using hn)
  refine ⟨_, (run_succ hsu 1).trans (run_succ hut 0), hts, ?_⟩
  exact {
    free := rfl
    done := by simp [PortState.doneWith]
    rbuf := by simp [hport]
    result := ⟨r, by simpa [hcfg] using hr, by simp [PortState.doneWith]⟩ }

end

/-- R241, by induction on the answers to come: all but the last bring the command to its next transaction. -/
theorem AwaitsLock.completes {p : PortId} {i : Instr} {xs : List Xfer} {answers : List (List Byte)} {rest : List Turn} :
    ∀ {s : State}, AwaitsLock s p i xs →
      answers.map List.length = (xs.drop (s.port p).step.toNat).map Xfer.m → s.turns = serveTurns p answers ++ rest →
      ∃ t, core.run (2 * answers.length) s = .next t ∧ t.turns = rest ∧ CompletedWith s t p i answers.flatten := by
  induction answers with
  | nil =>
    intro s h hlen _
    have hle : xs.length ≤ (s.port p).step.toNat := by simpa using hlen
    exact absurd h.step_lt hle.not_gt
  | cons rs answers ih =>
    intro s h hlen ht
    rw [List.drop_eq_getElem_cons h.step_lt, List.map_cons, List.map_cons, List.cons.injEq] at hlen
    obtain ⟨hl, hlen⟩ := hlen
    have hx := List.getElem?_eq_getElem h.step_lt
    rcases Nat.lt_or_eq_of_le (Nat.succ_le_of_lt h.step_lt) with hn | hn
    · obtain ⟨u, hrun, hu, hcfg, hts, hstep, hrbuf⟩ := h.served_again ht hx hl hn
      obtain ⟨t, hrun', hrest, hdone⟩ := ih hu (hstep ▸ hlen) hts
      refine ⟨t, (hrun _).trans hrun', hrest, hdone.free, hdone.done, ?_, hcfg ▸ hdone.result⟩
      simp [hdone.rbuf, hrbuf]
    · rw [List.drop_of_length_le hn.ge] at hlen
      obtain rfl : answers = [] := List.map_eq_nil_iff.mp hlen
      simpa using h.served_last ht hx hl hn

/-- Settles O36: a waiting command of a state with Inv waits for the lock, and its service completes it. -/
theorem servedCommandCompletes : Obligations.ServedCommandCompletes := by
  unfold Obligations.ServedCommandCompletes
  intro s p i xs answers rest hi ha hl hw hlat hlen ht
  obtain ⟨t, hrun, hrest, hdone⟩ := AwaitsLock.completes ⟨hi, ha, hl, hw, hlat⟩ hlen ht
  obtain ⟨r, hr, hrsp⟩ := hdone.result
  exact ⟨t, r, hrun, hrest, hdone.free, hdone.done, hdone.rbuf, hr, hrsp⟩

end Sys2Proof.Machine
end

section
/-! # The words the spec lists -/

namespace Sys2Proof

/-- Settles O7: each listed command's word matches its row and holds the listed operands; the other words have a reserved
opcode, or an assigned one and match no row. -/
theorem listedWordsDecodeAsListed : Obligations.ListedWordsDecodeAsListed := by
  have hillegal := reservedOpcodesAndBitsAreIllegal
  unfold Obligations.ReservedOpcodesAndBitsAreIllegal at hillegal
  unfold Obligations.ListedWordsDecodeAsListed
  refine ⟨?acquire, ?bind, ?transact, ?readReg, ?writeReg, ?readSample, ?formatN, ?formatT, ?opZero, ?opFifteen⟩
  case acquire | bind | transact | readReg | writeReg | readSample => exact decodeWord_eq_ok.mpr (by decide)
  case formatN | formatT => exact (hillegal _).2.mpr (by decide)
  case opZero | opFifteen => exact (hillegal _).1.mpr (by decide)

end Sys2Proof
end
